-- ==== Sys2Proof/Word.lean ====
section
/-! DEFINITION. The word types of the block: the 32-bit words of the command port, the 8-bit fields of a command word, and nominal time in microseconds. -/

namespace Sys2Proof

/-- A word of the command port: `CMD_WORD`, `CMD_ARG` or `RSP_DATA` (00_scope R6, R23). -/
abbrev Word := BitVec 32

/-- An 8-bit field of a command word, and one stored cell of sequence memory (30_encoding R91, R95). -/
abbrev Byte := BitVec 8

/-- A nominal time or duration in microseconds, exact (00_scope R24, R28). -/
abbrev Time := Rat

end Sys2Proof
end

