-- ==== Sys2Proof/Syntax.lean ====
section
/-! DEFINITION. The syntax of the two encoded forms of the block (30_encoding R90): the 19 commands of the command port and the 4 entry kinds of sequence memory, with operands already assembled from their fields (R93, R96). -/

namespace Sys2Proof

/-- A direction, forward or reverse (10_state R33). -/
inductive Dir where
  | fwd
  | rev
  deriving DecidableEq, Repr, Inhabited

/-- The other direction (42_continuous_swing R176). -/
def Dir.flip : Dir → Dir
  | .fwd => .rev
  | .rev => .fwd

/-- A PulseCommand, the pair `(pulseHigh, direction)` (30_encoding R95). -/
structure Entry where
  pulse : Bool
  edir : Dir
  deriving DecidableEq, Repr, Inhabited

/-- One constructor per row of the opcode table (30_encoding R97, R104). `axis` is the `AXIS` field as it stands
in the word, in range or not. Operands the table reads with `sext_32` are integers, those it reads with
`zext_32` are naturals, and must-be-0 operand bits are kept as `rsv`, because they are checked after the
axis (R101, 60_exceptions R263). An ignored operand is not kept (R93, last row). -/
inductive Instr where
  /-- `ENABLE` (R120). -/
  | enable (axis : Byte)
  /-- `DISABLE` (R121). -/
  | disable (axis : Byte)
  /-- `SET_DIRECTION` (R122): `ARG[0]` is the direction, `ARG[31:1]` must be 0. -/
  | setDirection (axis : Byte) (dir : Dir) (rsv : BitVec 31)
  /-- `SET_REFERENCE` (R123): an angle in millidegrees. -/
  | setReference (axis : Byte) (mdeg : Int)
  /-- `GO_ABS` (R157): a target angle in millidegrees. -/
  | goAbs (axis : Byte) (mdeg : Int)
  /-- `GO_REL` (R150): a relative angle in millidegrees. -/
  | goRel (axis : Byte) (mdeg : Int)
  /-- `SET_SPEED_PW` (R125): a pulse width in microseconds. -/
  | setSpeedPw (axis : Byte) (width : Int)
  /-- `SET_SPEED_RPS` (R127): milli-revolutions per second. -/
  | setSpeedRps (axis : Byte) (rate : Int)
  /-- `SET_SPEED_SPS` (R126): milli-steps per second. -/
  | setSpeedSps (axis : Byte) (rate : Int)
  /-- `SET_SPEED_RPM` (R128): milli-revolutions per minute. -/
  | setSpeedRpm (axis : Byte) (rate : Int)
  /-- `CONT_START` (R170). -/
  | contStart (axis : Byte)
  /-- `CONT_STOP` (R171). -/
  | contStop (axis : Byte)
  /-- `SWING_START` (R172): a period in milliseconds. -/
  | swingStart (axis : Byte) (period : Int)
  /-- `SWING_STOP` (R173). -/
  | swingStop (axis : Byte)
  /-- `SEQ_WRITE` (R210, R96): index `ARG[15:0]`, entry `ARG[17:16]`, `ARG[31:18]` must be 0. -/
  | seqWrite (axis : Byte) (index : BitVec 16) (entry : Entry) (rsv : BitVec 14)
  /-- `SEQ_SET_LEN` (R212): a length in entries. -/
  | seqSetLen (axis : Byte) (len : Nat)
  /-- `SEQ_SET_PERIOD` (R214): the tick interval in microseconds; the axis field must be 0. -/
  | seqSetPeriod (axis : Byte) (period : Int)
  /-- `SEQ_START` (R216): the participation mask; the axis field must be 0. -/
  | seqStart (axis : Byte) (mask : Word)
  /-- `READ_REG` (R240): the register number `ARG[15:0]`; `ARG[31:16]` must be 0. -/
  | readReg (axis : Byte) (reg : BitVec 16) (rsv : BitVec 16)
  /-- Entry 0b00, `STEP_LO_FWD` (R219). -/
  | stepLoFwd
  /-- Entry 0b01, `STEP_HI_FWD` (R220). -/
  | stepHiFwd
  /-- Entry 0b10, `STEP_LO_REV` (R221). -/
  | stepLoRev
  /-- Entry 0b11, `STEP_HI_REV` (R222). -/
  | stepHiRev
  deriving DecidableEq, Repr, Inhabited

/-- The entry kind that a PulseCommand is (30_encoding R104): all four values are legal (R100). -/
def Entry.toInstr : Entry → Instr
  | ⟨false, .fwd⟩ => .stepLoFwd
  | ⟨true, .fwd⟩ => .stepHiFwd
  | ⟨false, .rev⟩ => .stepLoRev
  | ⟨true, .rev⟩ => .stepHiRev

/-- The four entry kinds; every other instruction is a command (30_encoding R90). -/
def Instr.isEntry : Instr → Bool
  | .stepLoFwd | .stepHiFwd | .stepLoRev | .stepHiRev => true
  | .enable _ | .disable _ | .setDirection _ _ _ | .setReference _ _ | .goAbs _ _ | .goRel _ _
  | .setSpeedPw _ _ | .setSpeedRps _ _ | .setSpeedSps _ _ | .setSpeedRpm _ _ | .contStart _
  | .contStop _ | .swingStart _ _ | .swingStop _ | .seqWrite _ _ _ _ | .seqSetLen _ _
  | .seqSetPeriod _ _ | .seqStart _ _ | .readReg _ _ _ => false

end Sys2Proof
end

