-- ==== Sys2Proof/WellFormed.lean ====
section
/-! DEFINITION. Which instructions have an encoding: an integer operand fits the 32-bit `CMD_ARG` as `sext_32` reads it, a natural one as `zext_32` reads it (00_scope R23, 30_encoding R93). Every other field has exactly the width of its bits, so it needs no check. -/

namespace Sys2Proof

/-- `sext_32` gives integers in `[-2^31, 2^31 - 1]` (00_scope R23). -/
def fitsSigned (m : Int) : Bool := decide (-2147483648 ≤ m) && decide (m ≤ 2147483647)

/-- `zext_32` gives integers in `[0, 2^32 - 1]` (00_scope R23). -/
def fitsUnsigned (n : Nat) : Bool := decide (n ≤ 4294967295)

/-- The operand of the instruction has a 32-bit `CMD_ARG` that the decoder reads back as it. -/
def Instr.wf : Instr → Bool
  | .enable _ => true
  | .disable _ => true
  | .setDirection _ _ _ => true
  | .setReference _ m => fitsSigned m
  | .goAbs _ m => fitsSigned m
  | .goRel _ m => fitsSigned m
  | .setSpeedPw _ w => fitsSigned w
  | .setSpeedRps _ k => fitsSigned k
  | .setSpeedSps _ k => fitsSigned k
  | .setSpeedRpm _ k => fitsSigned k
  | .contStart _ => true
  | .contStop _ => true
  | .swingStart _ p => fitsSigned p
  | .swingStop _ => true
  | .seqWrite _ _ _ _ => true
  | .seqSetLen _ n => fitsUnsigned n
  | .seqSetPeriod _ p => fitsSigned p
  | .seqStart _ _ => true
  | .readReg _ _ _ => true
  | .stepLoFwd => true
  | .stepHiFwd => true
  | .stepLoRev => true
  | .stepHiRev => true

end Sys2Proof
end

