-- ==== Sys2Proof/Decode.lean ====
section
/-! DEFINITION. The decoder of the two encoded forms, total and rejecting by name, and after it the encoder, both from 30_encoding R91 to R104. The axis range is not a matter of decoding here: it depends on `N_AXES` and is the first check of every command's meaning (R101). -/

namespace Sys2Proof

/-- Why the decoder refuses. The first two are the two grounds of `ILLEGAL_COMMAND` (30_encoding R98). -/
inductive DecodeError where
  /-- `CMD_WORD[31:16]` is not 0 (R91). -/
  | reservedWordBits
  /-- `CMD_WORD[7:0]` is not in the table of R97. -/
  | unknownOpcode
  /-- A stored cell with a bit above the two of a PulseCommand (R95); the memory never holds one (log entry 24). -/
  | notAnEntry
  deriving DecidableEq, Repr

/-- The two encoded forms (30_encoding R90): a command is one `CMD_WORD` with one `CMD_ARG` presented
together (R92), an entry is the two bits of R95 in a cell of sequence memory. -/
inductive Encoded where
  | command (word arg : Word)
  | entry (bits : Byte)
  deriving DecidableEq, Repr

/-- `OP = CMD_WORD[7:0]` (R91). -/
def opField (w : Word) : Byte := w.extractLsb' 0 8

/-- `AXIS = CMD_WORD[15:8]` (R91). -/
def axisField (w : Word) : Byte := w.extractLsb' 8 8

/-- `RSV = CMD_WORD[31:16]` (R91). -/
def rsvField (w : Word) : BitVec 16 := w.extractLsb' 16 16

/-- One bit as a direction: 0 forward, 1 reverse (30_encoding R93, R95). -/
def dirOfBit (b : Bool) : Dir := if b then .rev else .fwd

/-- A direction as one bit: 0 forward, 1 reverse (10_state R33, 30_encoding R95). -/
def bitOfDir : Dir → Bool
  | .fwd => false
  | .rev => true

/-- The opcode map and the operand of each opcode (30_encoding R93, R96, R97). -/
def decodeOp (op axis : Byte) (arg : Word) : Except DecodeError Instr :=
  match op with
  | 0x01#8 => .ok (.enable axis)
  | 0x02#8 => .ok (.disable axis)
  | 0x03#8 => .ok (.setDirection axis (dirOfBit (arg.getLsbD 0)) (arg.extractLsb' 1 31))
  | 0x04#8 => .ok (.setReference axis arg.toInt)
  | 0x05#8 => .ok (.goAbs axis arg.toInt)
  | 0x06#8 => .ok (.goRel axis arg.toInt)
  | 0x07#8 => .ok (.setSpeedPw axis arg.toInt)
  | 0x08#8 => .ok (.setSpeedRps axis arg.toInt)
  | 0x09#8 => .ok (.setSpeedSps axis arg.toInt)
  | 0x0A#8 => .ok (.setSpeedRpm axis arg.toInt)
  | 0x0B#8 => .ok (.contStart axis)
  | 0x0C#8 => .ok (.contStop axis)
  | 0x0D#8 => .ok (.swingStart axis arg.toInt)
  | 0x0E#8 => .ok (.swingStop axis)
  | 0x10#8 => .ok (.seqWrite axis (arg.extractLsb' 0 16)
      ⟨arg.getLsbD 16, dirOfBit (arg.getLsbD 17)⟩ (arg.extractLsb' 18 14))
  | 0x11#8 => .ok (.seqSetLen axis arg.toNat)
  | 0x12#8 => .ok (.seqSetPeriod axis arg.toInt)
  | 0x13#8 => .ok (.seqStart axis arg)
  | 0x20#8 => .ok (.readReg axis (arg.extractLsb' 0 16) (arg.extractLsb' 16 16))
  | _ => .error .unknownOpcode

/-- Decoding a command: the reserved bits first, then the opcode (30_encoding R101). -/
def decodeCommand (word arg : Word) : Except DecodeError Instr :=
  if rsvField word ≠ 0 then .error .reservedWordBits
  else decodeOp (opField word) (axisField word) arg

/-- The PulseCommand a stored cell holds: `PULSE` at bit 0, `EDIR` at bit 1 (30_encoding R95). -/
def entryOfByte (b : Byte) : Option Entry :=
  if b.extractLsb' 2 6 = 0 then some ⟨b.getLsbD 0, dirOfBit (b.getLsbD 1)⟩ else none

/-- Decoding an entry (30_encoding R104); all four values are legal (R100). -/
def decodeEntry (b : Byte) : Except DecodeError Instr :=
  match entryOfByte b with
  | some e => .ok e.toInstr
  | none => .error .notAnEntry

/-- The decoder over both forms (30_encoding R90). -/
def decode : Encoded → Except DecodeError Instr
  | .command word arg => decodeCommand word arg
  | .entry bits => decodeEntry bits

/-- `CMD_WORD = {16'b0, axis[7:0], OP[7:0]}` (30_encoding R102). -/
def commandWord (op axis : Byte) : Word := 0#16 ++ axis ++ op

/-- The cell that holds a PulseCommand: `{EDIR, PULSE}` in the two low bits (30_encoding R95). -/
def byteOfEntry (e : Entry) : Byte :=
  0#6 ++ BitVec.ofBool (bitOfDir e.edir) ++ BitVec.ofBool e.pulse

/-- `CMD_ARG` of a signed operand (30_encoding R93, R102). -/
def signedArg (m : Int) : Word := BitVec.ofInt 32 m

/-- `CMD_ARG` of `SET_DIRECTION`: the direction in bit 0 (30_encoding R93). -/
def directionArg (dir : Dir) (rsv : BitVec 31) : Word := rsv ++ BitVec.ofBool (bitOfDir dir)

/-- `CMD_ARG` of `SEQ_WRITE`: `{14'b0, EDIR, PULSE, i[15:0]}` (30_encoding R96). -/
def seqWriteArg (index : BitVec 16) (e : Entry) (rsv : BitVec 14) : Word :=
  rsv ++ BitVec.ofBool (bitOfDir e.edir) ++ BitVec.ofBool e.pulse ++ index

/-- `CMD_ARG` of `READ_REG`: the register number in bits 15:0 (30_encoding R93). -/
def readRegArg (reg rsv : BitVec 16) : Word := rsv ++ reg

/-- The encoder: the words of an instruction, from the same tables (30_encoding R91, R93, R95 to R97, R102).
An ignored operand is written as 0 (R102). -/
def encode : Instr → Encoded
  | .enable a => .command (commandWord 0x01#8 a) 0
  | .disable a => .command (commandWord 0x02#8 a) 0
  | .setDirection a d r => .command (commandWord 0x03#8 a) (directionArg d r)
  | .setReference a m => .command (commandWord 0x04#8 a) (signedArg m)
  | .goAbs a m => .command (commandWord 0x05#8 a) (signedArg m)
  | .goRel a m => .command (commandWord 0x06#8 a) (signedArg m)
  | .setSpeedPw a w => .command (commandWord 0x07#8 a) (signedArg w)
  | .setSpeedRps a k => .command (commandWord 0x08#8 a) (signedArg k)
  | .setSpeedSps a k => .command (commandWord 0x09#8 a) (signedArg k)
  | .setSpeedRpm a k => .command (commandWord 0x0A#8 a) (signedArg k)
  | .contStart a => .command (commandWord 0x0B#8 a) 0
  | .contStop a => .command (commandWord 0x0C#8 a) 0
  | .swingStart a p => .command (commandWord 0x0D#8 a) (signedArg p)
  | .swingStop a => .command (commandWord 0x0E#8 a) 0
  | .seqWrite a i e r => .command (commandWord 0x10#8 a) (seqWriteArg i e r)
  | .seqSetLen a n => .command (commandWord 0x11#8 a) (BitVec.ofNat 32 n)
  | .seqSetPeriod a p => .command (commandWord 0x12#8 a) (signedArg p)
  | .seqStart a m => .command (commandWord 0x13#8 a) m
  | .readReg a g r => .command (commandWord 0x20#8 a) (readRegArg g r)
  | .stepLoFwd => .entry (byteOfEntry ⟨false, .fwd⟩)
  | .stepHiFwd => .entry (byteOfEntry ⟨true, .fwd⟩)
  | .stepLoRev => .entry (byteOfEntry ⟨false, .rev⟩)
  | .stepHiRev => .entry (byteOfEntry ⟨true, .rev⟩)

/-- A row of the opcode table of at most 8 bits is an entry kind, a wider one a command; a command's
second word, `CMD_ARG`, is the bits from 32 up (opcode_table.json, 30_encoding R92). -/
def encodedOfTableWord (nbits w : Nat) : Encoded :=
  let v := w % 2 ^ nbits
  if nbits ≤ 8 then .entry (BitVec.ofNat 8 v)
  else .command (BitVec.ofNat 32 v) (BitVec.ofNat 32 (v / 2 ^ 32))

/-- The instruction the decoder reads from a word of the opcode table, numbered as the table numbers it. -/
def decodeTableWord (nbits w : Nat) : Option Instr :=
  match decode (encodedOfTableWord nbits w) with
  | .ok i => some i
  | .error _ => none

end Sys2Proof
end

