-- ==== Sys2Proof/Config.lean ====
section
/-! DEFINITION. What an instance fixes (00_scope R8 to R22) and the free values: the constants with no body that stand for what the spec leaves open (93_implementation_defined items 1 to 7). -/

namespace Sys2Proof.Config

/-- The parameters of an instance (00_scope R9 to R17, R19, R20), fixed for its life (R8), with the defaults of R13 to R17
and R20. -/
structure Params where
  /-- `N_AXES` (R9). -/
  nAxes : Nat
  /-- `REV_RATIO[a]`, axis by axis (R10). -/
  revRatio : List Rat
  /-- `SEQ_DEPTH` (R11). -/
  seqDepth : Nat
  /-- `PW_RESET` (R12). -/
  pwReset : Nat
  /-- `DIR_LEVEL_FWD` (R13). -/
  dirLevelFwd : Bool := true
  /-- `EN_LEVEL_ON` (R14). -/
  enLevelOn : Bool := true
  /-- `CHECK_EQUAL_LENGTH` (R15). -/
  checkEqualLength : Bool := true
  /-- `STOP_CONT_CANCELS_SWING` (R16). -/
  stopContCancelsSwing : Bool := false
  /-- `LIVE_PWM_UPDATE` (R17). -/
  livePwmUpdate : Bool := false
  /-- `TIMING_JITTER`, in microseconds (R19). -/
  timingJitter : Rat
  /-- `PLANNER_INITIAL_DIR` (R20), which the planner reads (43_planner R192, R195). -/
  plannerInitialDir : Dir := .fwd
  deriving DecidableEq, Repr

/-- The ranges the parameter rules give (00_scope R9 to R12, R19). -/
def Params.wf (p : Params) : Bool :=
  decide (1 ≤ p.nAxes) && decide (p.nAxes ≤ 32)
    && decide (p.revRatio.length = p.nAxes) && p.revRatio.all (fun r => decide (0 < r))
    && decide (1 ≤ p.seqDepth) && decide (p.seqDepth ≤ 65535)
    && decide (25 ≤ p.pwReset) && decide (p.pwReset ≤ 4294967295)
    && decide (0 ≤ p.timingJitter)

/-- The instance that `State.reset` stands for: the common setting of 95_test_vectors, with no jitter.
DESIGN CHOICE (log entry 1), unsafe: a statement about this one instance says nothing of another. -/
def common : Params where
  nAxes := 2
  revRatio := [200, 200]
  seqDepth := 256
  pwReset := 500
  dirLevelFwd := true
  enLevelOn := true
  checkEqualLength := true
  stopContCancelsSwing := false
  livePwmUpdate := false
  timingJitter := 0
  plannerInitialDir := .fwd

/-- The pulse-width floor in microseconds (00_scope R22). -/
def pwFloor : Nat := 25

/-- The greatest pulse width, the width of the field (40_axis_config R124). -/
def pwMax : Nat := 4294967295

/-- The level of `STEP[a]` when the generator starts (42_continuous_swing R175): the `k`-th draw, free (log entry 4). -/
opaque freeLevel : Nat → Bool

/-- The time to the generator's first edge, as a numerator and a denominator (42_continuous_swing R175): the `k`-th draw, free (log entry 4). -/
opaque freePhase : Nat → Nat × Nat

/-- Which of several agents due at one nominal time steps next (20_memory R80, 60_exceptions R271): the `k`-th draw, free (log entry 5). -/
opaque freeChoice : Nat → Nat

/-- Where a pin event stands among the pin events of its tick (44_sequencer R226) or of its reset (70_reset_and_hazards R290): the `k`-th draw, free (log entry 6). -/
opaque freeOrder : Nat → Nat

/-- The stored bits of an unwritten entry, by its cell (20_memory R72, 93 item 4), free (log entry 7). -/
opaque freeEntry : Nat → Entry

/-- `PWM_FREQ_QUANT`: the frequency in Hz the generator actually produces for an exact frequency (00_scope R18), free;
nothing is assumed of it (log entry 8). -/
opaque pwmFreqQuant : Rat → Rat

end Sys2Proof.Config
end

