-- ==== Sys2Proof/Machine/State.lean ====
section
/-! DEFINITION. The state of the block (10_state R30 to R56, 20_memory R70), the inputs it sees (00_scope R6), the model's own fields, the reasons a step can stop, and the reset state (10_state R61). -/

namespace Sys2Proof.Machine

/-- The fault causes of 60_exceptions R260, without `OK`. They are answers of the command port, not stops. -/
inductive Cause where
  | illegalCommand
  | badAxis
  | badOperand
  | zeroRate
  | zeroPeriod
  | seqRange
  | busySequencer
  | busyContinuous
  | seqEmpty
  | seqLengthMismatch
  | seqUnwritten
  deriving DecidableEq, Repr

/-- An output pin of the block (00_scope R6). -/
inductive Pin where
  | step (a : Nat)
  | dir (a : Nat)
  | en (a : Nat)
  deriving DecidableEq, Repr

/-- A pin event `(time, P, l)` of the output trace (00_scope R25). -/
structure PinEvent where
  time : Time
  pin : Pin
  level : Bool
  deriving DecidableEq, Repr

/-- The generator's place in its square wave (42_continuous_swing R174, R175): its next edge comes `wait`
microseconds after `since`, the time of its start or of its last edge; `none` when the frequency it actually
produces gives it no further edge (00_scope R18; log entry 8). -/
structure PwmPhase where
  since : Time
  wait : Option Rat
  deriving DecidableEq, Repr

/-- The fields and output pins of one axis. -/
structure Axis where
  /-- `AX_EN[a]` (10_state R32). -/
  en : Bool
  /-- `AX_DIR[a]` (R33). -/
  dir : Dir
  /-- `AX_REF[a]`, exact degrees (R34). -/
  ref : Rat
  /-- `AX_PW[a]`, microseconds (R35). -/
  pw : Nat
  /-- `AX_CONT[a]` (R36). -/
  cont : Bool
  /-- `AX_CONT_PW[a]`, hidden, microseconds (R37). -/
  contPw : Nat
  /-- `AX_SWING[a]` (R38). -/
  swing : Bool
  /-- `AX_SWING_MS[a]`, hidden, milliseconds (R39). -/
  swingMs : Nat
  /-- `AX_SWING_NEXT[a]`, hidden; `none` is the spec's "none scheduled" (R40). -/
  swingNext : Option Time
  /-- `SEQ_LEN[a]`, entries (R41). -/
  seqLen : Nat
  /-- The level of `STEP[a]` (R43, R46). -/
  stepPin : Bool
  /-- The level of `DIR[a]` (R44). -/
  dirPin : Bool
  /-- The level of `EN[a]` (R45). -/
  enPin : Bool
  /-- The generator `PWM[a]`, hidden; `none` when it is stopped (42_continuous_swing R174, R175). -/
  pwm : Option PwmPhase
  deriving DecidableEq, Repr

/-- The half of a step the move engine is in (10_state R55). -/
inductive Phase where
  | high
  | low
  deriving DecidableEq, Repr

/-- The move record (10_state R55). -/
structure Move where
  axis : Nat
  remaining : Nat
  phase : Phase
  phaseEnd : Time
  width : Nat
  deriving DecidableEq, Repr

/-- `CMD_STATE` (10_state R54). `busy` stands only inside a step, between a command's acceptance and its response. -/
inductive CmdState where
  | idle
  | busy
  | moving (m : Move)
  deriving DecidableEq, Repr

/-- A command the host will present, at `time` or as soon after it as the command port's lines are free (00_scope R7). -/
structure HostCommand where
  time : Time
  word : Word
  arg : Word
  deriving DecidableEq, Repr

/-- A change of the `RESET` input at a nominal time (00_scope R6). -/
structure ResetEdge where
  time : Time
  level : Bool
  deriving DecidableEq, Repr

/-- The state of the block, its inputs, and the model's own fields. -/
structure State where
  /-- The instance's parameters (00_scope R8 to R20): no state (R57), carried here as data so that a statement
  about every state is one about every instance. No step changes them. -/
  inst : Config.Params
  /-- The axes `0` to `N_AXES - 1` (10_state R30). -/
  axes : List Axis
  /-- The written entries of the sequence memory (20_memory R70), in canonical form; an unlisted cell is `UNWRITTEN`. -/
  mem : List Host.Cell
  /-- `SEQ_RUN` (10_state R47). -/
  seqRun : Bool
  /-- `SEQ_IDX`, the sequencer's program counter (R48). -/
  seqIdx : BitVec 16
  /-- `SEQ_PERIOD`, microseconds, 0 for unset (R49). -/
  seqPeriod : Word
  /-- `SEQ_MASK`, bit `a` for axis `a` (R50); the bits above `N_AXES` are 0 in every reachable state (log entry 23). -/
  seqMask : Word
  /-- `SEQ_END` (R51). -/
  seqEnd : BitVec 16
  /-- `SEQ_NEXT`, hidden; `none` is the spec's "no tick scheduled" (R52). -/
  seqNext : Option Time
  /-- `FAULT_STICKY` (R53). -/
  faultSticky : BitVec 4
  /-- `CMD_STATE`, hidden, with the move record (R54, R55). -/
  cmdState : CmdState
  /-- `RSP_STATUS` (R56). -/
  rspStatus : BitVec 4
  /-- `RSP_DATA` (R56). -/
  rspData : Word
  /-- `RSP_VALID` (R56). -/
  rspValid : Bool
  /-- The input `CMD_WORD` (00_scope R6). -/
  cmdWord : Word
  /-- The input `CMD_ARG` (00_scope R6). -/
  cmdArg : Word
  /-- The input `CMD_VALID` (00_scope R6, R7). -/
  cmdValid : Bool
  /-- The input `RESET` (00_scope R6, 70_reset_and_hazards R290). -/
  resetIn : Bool
  /-- The clock `NOW` of a timed model (10_state R57). -/
  now : Time
  /-- The output trace of pin events, oldest first: an observation (00_scope R25, 10_state R57). -/
  trace : List PinEvent
  /-- The model's own: how many free values have been drawn. -/
  draws : Nat
  /-- The model's own: the axis whose entry a tick is performing (44_sequencer R218; log entry 22). -/
  lane : Nat
  /-- The model's own: the commands the host has still to present, in order (20_memory R75, R80). -/
  cmdStream : List HostCommand
  /-- The model's own: the changes of `RESET` still to come, in order. -/
  resetStream : List ResetEdge
  deriving DecidableEq, Repr

/-- Why the machine stops with a fault. The faults of the spec are answers of the command port and no stops
(60_exceptions R267). -/
inductive Fault where
  /-- A tick would read an entry at `SEQ_IDX >= SEQ_DEPTH`, an address the memory does not have (20_memory R70,
  R79). Raised by the tick agent alone. Safe: no run from reset reaches it, since `SEQ_IDX < SEQ_END <= SEQ_DEPTH`
  while `SEQ_RUN = 1` (10_state R48). -/
  | seqIndexOutsideMemory
  deriving DecidableEq, Repr

/-- Why a step is refused. -/
inductive Refusal where
  /-- An instruction with no meaning yet, by its mnemonic; raised by an arm of `exec` alone. Safe. No arm raises it now. -/
  | notModelled (mnemonic : String)
  deriving DecidableEq, Repr

/-- What a step, and a meaning, answers. -/
abbrev Result := Host.Outcome State Fault Refusal

/-- An axis after reset (10_state R61): `DIR[a]` at `lvl_dir(FWD)`, `EN[a]` at `lvl_en(0)` (00_scope R13, R14). -/
def Axis.reset (p : Config.Params) : Axis where
  en := false
  dir := .fwd
  ref := 0
  pw := p.pwReset
  cont := false
  contPw := 0
  swing := false
  swingMs := 0
  swingNext := none
  seqLen := 0
  stepPin := false
  dirPin := p.dirLevelFwd
  enPin := !p.enLevelOn
  pwm := none

/-- The machine of an instance right after power-on (10_state R61, 70_reset_and_hazards R290). `RSP_STATUS` and
`RSP_DATA`, which the spec leaves unspecified (R56), are 0: DESIGN CHOICE (log entry 3), unsafe. The input
lines are inactive and the model's own fields empty (log entries 2 and 9). -/
def State.resetOf (p : Config.Params) : State where
  inst := p
  axes := List.replicate p.nAxes (Axis.reset p)
  mem := []
  seqRun := false
  seqIdx := 0
  seqPeriod := 0
  seqMask := 0
  seqEnd := 0
  seqNext := none
  faultSticky := 0
  cmdState := .idle
  rspStatus := 0
  rspData := 0
  rspValid := false
  cmdWord := 0
  cmdArg := 0
  cmdValid := false
  resetIn := false
  now := 0
  trace := []
  draws := 0
  lane := 0
  cmdStream := []
  resetStream := []

/-- The machine right after reset, for the common instance of 95_test_vectors (log entry 1). -/
def State.reset : State := State.resetOf Config.common

end Sys2Proof.Machine
end

