-- ==== Sys2Proof/Machine/Operands.lean ====
section
/-! DEFINITION. What the operands of the commands mean: exact angles, widths and step counts (00_scope R24, 40_axis_config R124 to R128, 41_discrete_motion R153, R158), the participation mask (44_sequencer R216) and the places of entries (20_memory R70). -/

namespace Sys2Proof.Machine

/-- `wrap360(q) = q - 360 * floor(q / 360)` (00_scope R24). -/
def wrap360 (q : Rat) : Rat := q - 360 * ((q / 360).floor : Rat)

/-- An angle operand in degrees: operands are millidegrees (30_encoding R93). -/
def degrees (mdeg : Int) : Rat := (mdeg : Rat) / 1000

/-- `clamp_pw(q) = min(2^32 - 1, max(25, floor(q)))` (40_axis_config R124). -/
def clampPw (q : Rat) : Nat := min Config.pwMax (max (Config.pwFloor : Int) q.floor).toNat

/-- The unclamped width of a rate in steps per second, `1000000 / (stepsPerSecond * 2)` (40_axis_config R126). -/
def widthOfStepRate (sps : Rat) : Rat := 1000000 / (2 * sps)

/-- Steps per second of a rate in milli-steps per second (40_axis_config R126). -/
def stepRateOfSps (k : Int) : Rat := (k : Rat) / 1000

/-- Steps per second of a rate in milli-revolutions per second (40_axis_config R127). -/
def stepRateOfRps (ratio : Rat) (k : Int) : Rat := (k : Rat) / 1000 * ratio

/-- Steps per second of a rate in milli-revolutions per minute (40_axis_config R128; the 60 is the
spec's general knowledge: UNVERIFIED, log entry 19). -/
def stepRateOfRpm (ratio : Rat) (k : Int) : Rat := (k : Rat) / 1000 * ratio / 60

/-- `steps(a, rel) = max(0, floor(rel / 360 * REV_RATIO[a]))` (41_discrete_motion R153). -/
def stepCount (ratio rel : Rat) : Nat := (max 0 (rel / 360 * ratio).floor).toNat

/-- `RelAngle(d, ref, t)`, direction-sticky and never the shortest path (41_discrete_motion R158, R159). -/
def relAngle : Dir → Rat → Rat → Rat
  | .fwd, ref, t => if ref ≤ t then t - ref else t + 360 - ref
  | .rev, ref, t => if t ≤ ref then ref - t else ref + 360 - t

/-- The reference after one step: `wrap360` of the old one plus or minus `360 / REV_RATIO[a]`
(41_discrete_motion R152, whose repeated correction equals `wrap360`: DEDUCED, log entry 13). -/
def refAfterStep (ratio : Rat) : Dir → Rat → Rat
  | .fwd, ref => wrap360 (ref + 360 / ratio)
  | .rev, ref => wrap360 (ref - 360 / ratio)

/-- The axes whose bit is set in a mask, below `n` (44_sequencer R216, R218). -/
def lanesOf (n : Nat) (mask : Word) : List Nat := (List.range n).filter (fun a => mask.getLsbD a)

/-- `mask[31:N_AXES] != 0`: a mask bit names no axis (44_sequencer R216). -/
def maskNamesNoAxis (n : Nat) (mask : Word) : Bool := decide (mask >>> n ≠ 0)

/-- The place of entry `(a, i)` in the list that holds the sequence memory; an index has 16 bits (20_memory R70).
DESIGN CHOICE (log entry 14). -/
def cellOf (a i : Nat) : Nat := a * 65536 + i

/-- The nominal frequency of a generator at a width, in Hz (42_continuous_swing R174). -/
def nominalFreq (width : Nat) : Rat := 500000 / (width : Rat)

/-- The frequency it actually produces, `PWM_FREQ_QUANT(F)` (42_continuous_swing R174, 00_scope R18; log entry 8). -/
def actualFreq (width : Nat) : Rat := Config.pwmFreqQuant (nominalFreq width)

/-- The time from one edge to the next, half a period of the actual frequency, so `width` itself where
`PWM_FREQ_QUANT` is exact; a frequency that is not positive has no edges (42_continuous_swing R174, R316; DESIGN
CHOICE, log entry 8). -/
def halfPeriod (width : Nat) : Option Rat :=
  if 0 < actualFreq width then some (500000 / actualFreq width) else none

/-- The time from the generator's start to its first edge: a free fraction in `(0, 1]` of a half-period
(42_continuous_swing R175; log entry 4). -/
def firstWait (phase : Nat × Nat) (width : Nat) : Rat :=
  ((phase.1 % (phase.2 + 1) + 1 : Nat) : Rat) / ((phase.2 + 1 : Nat) : Rat) * (width : Rat)

end Sys2Proof.Machine
end

