-- ==== Sys2Proof/Machine/Flags.lean ====
section
/-! DEFINITION. The status flags and what is computed from them: the pin levels of a direction and of an enable (00_scope R25), pin ownership (60_exceptions R262), `CMD_READY` (10_state R54), the cause codes and the sticky rule (60_exceptions R260, R264), and the bit layouts of the status registers (45_readback R241, R254). -/

namespace Sys2Proof.Machine

/-- `lvl_dir(d)` (00_scope R13, R25). -/
def lvlDir (p : Config.Params) : Dir → Bool
  | .fwd => p.dirLevelFwd
  | .rev => !p.dirLevelFwd

/-- `lvl_en(e)` (00_scope R14, R25). -/
def lvlEn (p : Config.Params) (e : Bool) : Bool := if e then p.enLevelOn else !p.enLevelOn

/-- Axis `a`; beyond the last axis, an axis as after reset, which no instruction reads (it checks the axis first;
DESIGN CHOICE, log entry 20). -/
def State.ax (s : State) (a : Nat) : Axis := s.axes.getD a (Axis.reset s.inst)

/-- `REV_RATIO[a]` (00_scope R10); the value 1 beyond the last axis is read by no instruction that passes its axis
check (log entry 20). -/
def State.ratio (s : State) (a : Nat) : Rat := s.inst.revRatio.getD a 1

/-- `seq_owns(a) = (SEQ_RUN = 1) and (SEQ_MASK[a] = 1)` (60_exceptions R262). -/
def State.seqOwns (s : State) (a : Nat) : Bool := s.seqRun && s.seqMask.getLsbD a

/-- `cont_busy(a) = (AX_CONT[a] = 1) or (AX_SWING[a] = 1)` (60_exceptions R262). -/
def State.contBusy (s : State) (a : Nat) : Bool := (s.ax a).cont || (s.ax a).swing

/-- `CMD_READY = 1` exactly when `CMD_STATE = IDLE` (10_state R54). -/
def State.cmdReady (s : State) : Bool := decide (s.cmdState = .idle)

/-- The axes that take part in the running or last sequence (10_state R50). -/
def State.lanes (s : State) : List Nat := lanesOf s.inst.nAxes s.seqMask

/-- The axis field names no axis (30_encoding R94, R101). -/
def State.badAxis (s : State) (axis : Byte) : Bool := decide (s.inst.nAxes ≤ axis.toNat)

/-- The cause codes (60_exceptions R260). -/
def Cause.code : Cause → BitVec 4
  | .illegalCommand => 0x1#4
  | .badAxis => 0x2#4
  | .badOperand => 0x3#4
  | .zeroRate => 0x4#4
  | .zeroPeriod => 0x5#4
  | .seqRange => 0x6#4
  | .busySequencer => 0x7#4
  | .busyContinuous => 0x8#4
  | .seqEmpty => 0x9#4
  | .seqLengthMismatch => 0xA#4
  | .seqUnwritten => 0xB#4

/-- `FAULT_STICKY` after a fault: the first code since reset is kept (60_exceptions R264). -/
def stickyAfter (old code : BitVec 4) : BitVec 4 := if old = 0 then code else old

/-- The value of register `AXIS_STATUS`, bit 0 last (45_readback R241). -/
def State.axisStatus (s : State) (a : Nat) : Word :=
  0#24 ++ BitVec.ofBool (s.seqOwns a) ++ BitVec.ofBool (s.ax a).enPin ++ BitVec.ofBool (s.ax a).dirPin
    ++ BitVec.ofBool (s.ax a).stepPin ++ BitVec.ofBool (s.ax a).swing ++ BitVec.ofBool (s.ax a).cont
    ++ BitVec.ofBool (decide ((s.ax a).dir = .rev)) ++ BitVec.ofBool (s.ax a).en

/-- The value of register `PARAMS`, bit 0 last (45_readback R254). -/
def paramsWord (p : Config.Params) : Word :=
  0#3 ++ BitVec.ofBool p.enLevelOn ++ BitVec.ofBool p.dirLevelFwd ++ BitVec.ofBool p.livePwmUpdate
    ++ BitVec.ofBool p.stopContCancelsSwing ++ BitVec.ofBool p.checkEqualLength ++ 0#3
    ++ BitVec.ofNat 5 (p.nAxes - 1) ++ BitVec.ofNat 16 p.seqDepth

end Sys2Proof.Machine
end

