-- ==== Sys2Proof/Machine/Ops.lean ====
section
/-! DEFINITION. The named operations every meaning is written over: the sequence memory, pin writes, the response and the fault of a command, the shared shape of a command (checks in order, then the effect), the start and stop of a generator, and the reset of the block. -/

namespace Sys2Proof.Machine

/-! ### Sequence memory (20_memory R70 to R73) -/

/-- The stored cell at a place, or `none` for `UNWRITTEN`: what an unlisted address reads as (20_memory R72; log
entry 14). -/
def memRead : List Host.Cell → Nat → Option Byte
  | [], _ => none
  | (k, b) :: m, x => if k = x then some b else memRead m x

/-- Store one cell, keeping the addresses strictly rising. -/
def memWrite : List Host.Cell → Nat → Byte → List Host.Cell
  | [], x, v => [(x, v)]
  | (k, b) :: m, x, v =>
    if x < k then (x, v) :: (k, b) :: m
    else if x = k then (x, v) :: m
    else (k, b) :: memWrite m x v

/-- Every listed address is above `low`, and they rise strictly. -/
def Memory.risesAbove : Nat → List Host.Cell → Bool
  | _, [] => true
  | low, (k, _) :: m => decide (low < k) && Memory.risesAbove k m

/-- Every cell holds the two bits of a PulseCommand and nothing above them (30_encoding R95). -/
def Memory.holdsEntries (m : List Host.Cell) : Bool := m.all (fun c => (entryOfByte c.2).isSome)

/-- The canonical form: addresses strictly rising and every cell a PulseCommand. An unlisted address is
`UNWRITTEN`, which no cell's value equals. -/
def Memory.wf : List Host.Cell → Bool
  | [] => true
  | (k, b) :: m => Memory.risesAbove k m && Memory.holdsEntries ((k, b) :: m)

/-- `SeqRead(a, i)`: the entry, or `none` for `UNWRITTEN` (20_memory R71). -/
def State.seqRead (s : State) (a i : Nat) : Option Entry :=
  match memRead s.mem (cellOf a i) with
  | some b => entryOfByte b
  | none => none

/-- `SeqWrite(a, i, e)` (20_memory R71). -/
def seqStore (a i : Nat) (e : Entry) (s : State) : State :=
  { s with mem := memWrite s.mem (cellOf a i) (byteOfEntry e) }

/-! ### Fields of an axis and pin writes (00_scope R25) -/

/-- `S.f[a] <- v`, for any fields of axis `a` (00_scope R25). -/
def modAx (a : Nat) (f : Axis → Axis) (s : State) : State := { s with axes := s.axes.modify a f }

/-- Record a pin event at the nominal time of the step (00_scope R25), the level changed or not (DEDUCED, log
entry 17). -/
def logPin (p : Pin) (l : Bool) (s : State) : State := { s with trace := s.trace ++ [⟨s.now, p, l⟩] }

/-- Drive the step output, whoever drives it. -/
def driveStep (a : Nat) (l : Bool) (s : State) : State :=
  logPin (.step a) l (modAx a (fun x => { x with stepPin := l }) s)

/-- `PinWrite(STEP[a], l)`, a static write: while `AX_CONT[a] = 1` it does not reach the output (10_state R46) and
is no event (DEDUCED, log entry 18). -/
def writeStep (a : Nat) (l : Bool) (s : State) : State :=
  if (s.ax a).cont then s else driveStep a l s

/-- `PinWrite(DIR[a], l)` (10_state R44). -/
def writeDir (a : Nat) (l : Bool) (s : State) : State :=
  logPin (.dir a) l (modAx a (fun x => { x with dirPin := l }) s)

/-- `PinWrite(EN[a], l)` (10_state R45). -/
def writeEn (a : Nat) (l : Bool) (s : State) : State :=
  logPin (.en a) l (modAx a (fun x => { x with enPin := l }) s)

/-- `S.AX_DIR[a] <- d` and `PinWrite(DIR[a], lvl_dir(d))` (40_axis_config R122, 42_continuous_swing R176). -/
def setDir (a : Nat) (d : Dir) (s : State) : State :=
  writeDir a (lvlDir s.inst d) (modAx a (fun x => { x with dir := d }) s)

/-- `S.AX_EN[a] <- e` and `PinWrite(EN[a], lvl_en(e))` (40_axis_config R120, R121). -/
def setEnable (a : Nat) (e : Bool) (s : State) : State :=
  writeEn a (lvlEn s.inst e) (modAx a (fun x => { x with en := e }) s)

/-- `S.AX_PW[a] <- clamp_pw(q)`, and `AX_CONT_PW[a]` with it when `LIVE_PWM_UPDATE` is true and the generator runs
(40_axis_config R124, R131). -/
def storeWidth (a : Nat) (q : Rat) (s : State) : State :=
  modAx a (fun x => { x with
    pw := clampPw q
    contPw := if s.inst.livePwmUpdate && x.cont then clampPw q else x.contPw }) s

/-- `S.AX_REF[a] <- r` (40_axis_config R123, 41_discrete_motion R152). -/
def setRef (a : Nat) (r : Rat) (s : State) : State := modAx a (fun x => { x with ref := r }) s

/-- `ContStart(a)`: latch the width and start the generator at a drawn level and first edge
(42_continuous_swing R170, R175; log entry 4). The level is recorded like a pin write (DESIGN CHOICE, log entry 17). -/
def startGenerator (a : Nat) (s : State) : State :=
  driveStep a (Config.freeLevel s.draws)
    { modAx a (fun x => { x with
        contPw := x.pw
        cont := true
        pwm := some ⟨s.now, some (firstWait (Config.freePhase s.draws) x.pw)⟩ }) s with
      draws := s.draws + 1 }

/-- `ContStop(a)`: stop the generator, static low, and cancel the swing when `STOP_CONT_CANCELS_SWING` is true
(42_continuous_swing R171). -/
def stopGenerator (a : Nat) (s : State) : State :=
  driveStep a false (modAx a (fun x => { x with
    cont := false
    pwm := none
    swing := x.swing && !s.inst.stopContCancelsSwing }) s)

/-! ### The command port (00_scope R7, 60_exceptions R260 to R268) -/

/-- `respond(OK, d)`: the response is presented and `CMD_READY` returns to 1 (00_scope R7, R25). `RSP_VALID` becomes 1
also where the host has already presented the next command, during a move: DESIGN CHOICE (log entry 25). -/
def respond (d : Word) (s : State) : State :=
  { s with cmdState := .idle, rspStatus := 0, rspData := d, rspValid := true }

/-- `raise Fault(c)`, the block's one exception: the cause is answered with data 0, the first cause since
reset is kept in `FAULT_STICKY`, and nothing else is written (60_exceptions R261, R264, R265). There is no
vector, no saved pc, no mode and no return (R267, R268): the next command proceeds normally. -/
def raiseFault (c : Cause) (s : State) : State :=
  { s with
    cmdState := .idle
    rspStatus := c.code
    rspData := 0
    rspValid := true
    faultSticky := stickyAfter s.faultSticky c.code }

/-- The cause of the first check that fails (60_exceptions R263). -/
def firstFault : List (Bool × Cause) → Option Cause
  | [] => none
  | (failed, c) :: rest => if failed then some c else firstFault rest

/-- The shape of every command: its checks in their order, and its effect only when all of them pass
(30_encoding R101, 60_exceptions R261, R263). -/
def command (s : State) (checks : List (Bool × Cause)) (effect : State) : Result :=
  match firstFault checks with
  | some c => .next (raiseFault c s)
  | none => .next effect

/-- Acceptance: the command leaves the port's input lines and the response before it is no longer valid
(00_scope R7, 10_state R54, R56; DEDUCED, log entry 12). For a command presented during a move, `RSP_VALID` falls
here: DESIGN CHOICE (log entry 25). -/
def acceptCommand (s : State) : State :=
  { s with cmdState := .busy, cmdValid := false, rspValid := false }

/-- The first check of a per-axis command (30_encoding R94, R101). -/
def axisCheck (s : State) (axis : Byte) : Bool × Cause := (s.badAxis axis, .badAxis)

/-- The first check of a global command: the axis field must be 0 (30_encoding R94, R101). -/
def globalCheck (axis : Byte) : Bool × Cause := (decide (axis ≠ 0), .badAxis)

/-- The check of a command whose pins the sequencer may own (60_exceptions R262). -/
def seqOwnsCheck (s : State) (axis : Byte) : Bool × Cause := (s.seqOwns axis.toNat, .busySequencer)

/-- The check of a discrete move against the generator and the swing timer (60_exceptions R262). -/
def contBusyCheck (s : State) (axis : Byte) : Bool × Cause := (s.contBusy axis.toNat, .busyContinuous)

/-- The check of a command that changes what a sequence plays (60_exceptions R262). -/
def seqRunCheck (s : State) : Bool × Cause := (s.seqRun, .busySequencer)

/-! ### An order left open -/

/-- Put one item at a place of a list, at its end if the place is beyond it. -/
def insertAt {α : Type} : Nat → α → List α → List α
  | 0, x, l => x :: l
  | _ + 1, x, [] => [x]
  | n + 1, x, y :: l => y :: insertAt n x l

/-- A list in an order the draws from `k` on choose; every order is one of them (44_sequencer R226;
log entry 6). -/
def inFreeOrder {α : Type} (k : Nat) : List α → List α
  | [] => []
  | x :: l => insertAt (Config.freeOrder k % (l.length + 1)) x (inFreeOrder (k + 1) l)

/-! ### Reset (70_reset_and_hazards R290, R291) -/

/-- The pin events of a reset: each output that stood at another level, driven to its reset level (R290; DESIGN
CHOICE, log entry 9). The spec gives them no order, and `resetBlock` puts them in a free one (log entry 6). -/
def resetEvents (s : State) : List PinEvent :=
  (List.range s.inst.nAxes).flatMap fun a =>
    (if (s.ax a).stepPin then [⟨s.now, .step a, false⟩] else [])
      ++ (if (s.ax a).dirPin = lvlDir s.inst .fwd then [] else [⟨s.now, .dir a, lvlDir s.inst .fwd⟩])
      ++ (if (s.ax a).enPin = lvlEn s.inst false then [] else [⟨s.now, .en a, lvlEn s.inst false⟩])

/-- The block in its reset state. The inputs are the host's and stay; the clock and the trace go on and the draws
are not repeated (R290, R291; log entry 9). Its pin events stand in a free order (log entry 6). -/
def resetBlock (s : State) : State :=
  { State.resetOf s.inst with
    cmdWord := s.cmdWord
    cmdArg := s.cmdArg
    cmdValid := s.cmdValid
    resetIn := s.resetIn
    now := s.now
    trace := s.trace ++ inFreeOrder s.draws (resetEvents s)
    draws := s.draws + (resetEvents s).length
    cmdStream := s.cmdStream
    resetStream := s.resetStream }

end Sys2Proof.Machine
end

