-- ==== Sys2Proof/Machine/AxisConfig.lean ====
section
/-! DEFINITION. The axis configuration commands (40_axis_config): `ENABLE`, `DISABLE`, `SET_DIRECTION`, `SET_REFERENCE` and the four speed setters. -/

namespace Sys2Proof.Machine

/-- `ENABLE` (R120). -/
def execEnable (axis : Byte) (s : State) : Result :=
  command s [axisCheck s axis] (respond 0 (setEnable axis.toNat true s))

/-- `DISABLE`: stops no motion (R121). -/
def execDisable (axis : Byte) (s : State) : Result :=
  command s [axisCheck s axis] (respond 0 (setEnable axis.toNat false s))

/-- `SET_DIRECTION` (R122). -/
def execSetDirection (axis : Byte) (dir : Dir) (rsv : BitVec 31) (s : State) : Result :=
  command s [axisCheck s axis, (decide (rsv ≠ 0), .badOperand), seqOwnsCheck s axis]
    (respond 0 (setDir axis.toNat dir s))

/-- `SET_REFERENCE`: moves nothing (R123). -/
def execSetReference (axis : Byte) (mdeg : Int) (s : State) : Result :=
  command s [axisCheck s axis] (respond 0 (setRef axis.toNat (wrap360 (degrees mdeg)) s))

/-- `SET_SPEED_PW` (R125). -/
def execSetSpeedPw (axis : Byte) (width : Int) (s : State) : Result :=
  command s [axisCheck s axis] (respond 0 (storeWidth axis.toNat (width : Rat) s))

/-- `SET_SPEED_SPS` (R126). -/
def execSetSpeedSps (axis : Byte) (rate : Int) (s : State) : Result :=
  command s [axisCheck s axis, (decide (rate = 0), .zeroRate)]
    (respond 0 (storeWidth axis.toNat (widthOfStepRate (stepRateOfSps rate)) s))

/-- `SET_SPEED_RPS` (R127). -/
def execSetSpeedRps (axis : Byte) (rate : Int) (s : State) : Result :=
  command s [axisCheck s axis, (decide (rate = 0), .zeroRate)]
    (respond 0 (storeWidth axis.toNat (widthOfStepRate (stepRateOfRps (s.ratio axis.toNat) rate)) s))

/-- `SET_SPEED_RPM` (R128). -/
def execSetSpeedRpm (axis : Byte) (rate : Int) (s : State) : Result :=
  command s [axisCheck s axis, (decide (rate = 0), .zeroRate)]
    (respond 0 (storeWidth axis.toNat (widthOfStepRate (stepRateOfRpm (s.ratio axis.toNat) rate)) s))

end Sys2Proof.Machine
end

