-- ==== Sys2Proof/Machine/Continuous.lean ====
section
/-! DEFINITION. Continuous moving and swing (42_continuous_swing): `CONT_START`, `CONT_STOP`, `SWING_START`, `SWING_STOP`, the swing timer's toggle and the generator's edge. -/

namespace Sys2Proof.Machine

/-- `CONT_START` (R170). -/
def execContStart (axis : Byte) (s : State) : Result :=
  command s [axisCheck s axis, seqOwnsCheck s axis] (respond 0 (startGenerator axis.toNat s))

/-- `CONT_STOP` (R171). -/
def execContStop (axis : Byte) (s : State) : Result :=
  command s [axisCheck s axis, seqOwnsCheck s axis] (respond 0 (stopGenerator axis.toNat s))

/-- Schedule the swing timer: the first toggle comes one period after the command (R172). -/
def startSwing (a ms : Nat) (s : State) : State :=
  modAx a (fun x => { x with
    swing := true
    swingMs := ms
    swingNext := some (s.now + 1000 * (ms : Rat)) }) s

/-- Cancel the swing timer (R173); its period and next time stay, meaningless (DESIGN CHOICE, log entry 16). -/
def cancelSwing (a : Nat) (s : State) : State := modAx a (fun x => { x with swing := false }) s

/-- `SWING_START`: replaces a running timer (R172). -/
def execSwingStart (axis : Byte) (period : Int) (s : State) : Result :=
  command s [axisCheck s axis, (decide (period ≤ 0), .zeroPeriod), seqOwnsCheck s axis]
    (respond 0 (startSwing axis.toNat period.toNat (startGenerator axis.toNat s)))

/-- `SWING_STOP`: the timer first, then the generator (R173). -/
def execSwingStop (axis : Byte) (s : State) : Result :=
  command s [axisCheck s axis, seqOwnsCheck s axis]
    (respond 0 (stopGenerator axis.toNat (cancelSwing axis.toNat s)))

/-- The toggle of `SWG[a]` whose nominal time is `t` (R176). -/
def swingToggle (a : Nat) (t : Time) (s : State) : State :=
  modAx a (fun x => { x with swingNext := some (t + 1000 * (x.swingMs : Rat)) })
    (setDir a (s.ax a).dir.flip s)

/-- An edge of the generator `PWM[a]` at time `t`; the next one comes a half-period of the actual frequency later,
at the width latched by then (R174, 40_axis_config R131). The edge is recorded like a pin write (DESIGN CHOICE, log
entry 17). -/
def pwmEdge (a : Nat) (t : Time) (s : State) : State :=
  driveStep a (!(s.ax a).stepPin)
    (modAx a (fun x => { x with pwm := some ⟨t, halfPeriod x.contPw⟩ }) s)

/-- The nominal frequency of axis `a`'s running generator in Hz (R174). -/
def State.pwmNominalFreq (s : State) (a : Nat) : Rat := nominalFreq (s.ax a).contPw

/-- The frequency it actually produces (R174, 00_scope R18). -/
def State.pwmActualFreq (s : State) (a : Nat) : Rat := actualFreq (s.ax a).contPw

end Sys2Proof.Machine
end

