-- ==== Sys2Proof/Machine/DiscreteMotion.lean ====
section
/-! DEFINITION. The discrete motion commands and the move engine (41_discrete_motion): `GO_REL`, `GO_ABS`, and the two edges of a step. -/

namespace Sys2Proof.Machine

/-- `MoveRel(a, rel)`: no step answers at once; otherwise the first pulse rises and the move engine takes over,
with the width the axis has now (R150). -/
def moveRel (a : Nat) (rel : Rat) (s : State) : State :=
  if stepCount (s.ratio a) rel = 0 then respond 0 s
  else
    writeStep a true { s with cmdState := .moving {
      axis := a
      remaining := stepCount (s.ratio a) rel
      phase := .high
      phaseEnd := s.now + ((s.ax a).pw : Rat)
      width := (s.ax a).pw } }

/-- `GO_REL` (R150). -/
def execGoRel (axis : Byte) (mdeg : Int) (s : State) : Result :=
  command s [axisCheck s axis, seqOwnsCheck s axis, contBusyCheck s axis]
    (moveRel axis.toNat (degrees mdeg) s)

/-- `GO_ABS`: the target is not wrapped (R157). -/
def execGoAbs (axis : Byte) (mdeg : Int) (s : State) : Result :=
  command s [axisCheck s axis, seqOwnsCheck s axis, contBusyCheck s axis]
    (moveRel axis.toNat (relAngle (s.ax axis.toNat).dir (s.ax axis.toNat).ref (degrees mdeg)) s)

/-- `UpdateRef(a)` (R152). -/
def updateRef (a : Nat) (s : State) : State :=
  setRef a (refAfterStep (s.ratio a) (s.ax a).dir (s.ax a).ref) s

/-- The end of a high phase: the pulse falls (R151). -/
def endHigh (m : Move) (s : State) : State :=
  writeStep m.axis false { s with cmdState := .moving { m with
    phase := .low, phaseEnd := m.phaseEnd + (m.width : Rat) } }

/-- The end of a low phase: the reference moves by one step, and the move ends with its response or the next
pulse rises (R151, R152, R155). -/
def endLow (m : Move) (s : State) : State :=
  if m.remaining - 1 = 0 then respond 0 (updateRef m.axis s)
  else
    writeStep m.axis true { updateRef m.axis s with cmdState := .moving { m with
      remaining := m.remaining - 1, phase := .high, phaseEnd := m.phaseEnd + (m.width : Rat) } }

/-- One step of the move engine (R151). -/
def moveStep (m : Move) (s : State) : State :=
  match m.phase with
  | .high => endHigh m s
  | .low => endLow m s

end Sys2Proof.Machine
end

