-- ==== Sys2Proof/Machine/Readback.lean ====
section
/-! DEFINITION. Register readback (45_readback): the register numbers, their values and `READ_REG`. -/

namespace Sys2Proof.Machine

/-- The number is one of R241 to R254 (R256). -/
def isRegister (r : BitVec 16) : Bool :=
  decide (r.toNat ≤ 0x06) || (decide (0x10 ≤ r.toNat) && decide (r.toNat ≤ 0x16))

/-- A per-axis register (R240). -/
def isPerAxis (r : BitVec 16) : Bool := decide (r.toNat < 0x10)

/-- `REF_MDEG`: the reference in millidegrees, rounded down (R242). -/
def refMdeg (ref : Rat) : Word := BitVec.ofInt 32 (ref * 1000).floor

/-- `REV_RATIO_MILLI` (R244). -/
def revRatioMilli (ratio : Rat) : Word := BitVec.ofInt 32 (min 4294967295 (ratio * 1000).floor)

/-- `PWM_FREQ`: the nominal frequency in millihertz, rounded down, 0 when the generator does not run (R245). -/
def pwmFreq (x : Axis) : Word := if x.cont then BitVec.ofNat 32 (500000000 / x.contPw) else 0

/-- `SWING_PERIOD` (R246). -/
def swingPeriod (x : Axis) : Word := if x.swing then BitVec.ofNat 32 x.swingMs else 0

/-- The value of register `r`, for axis `a` where it is a per-axis one (R241 to R254). -/
def State.regValue (s : State) (a : Nat) (r : BitVec 16) : Word :=
  match r with
  | 0x00#16 => s.axisStatus a
  | 0x01#16 => refMdeg (s.ax a).ref
  | 0x02#16 => BitVec.ofNat 32 (s.ax a).pw
  | 0x03#16 => revRatioMilli (s.ratio a)
  | 0x04#16 => pwmFreq (s.ax a)
  | 0x05#16 => swingPeriod (s.ax a)
  | 0x06#16 => BitVec.ofNat 32 (s.ax a).seqLen
  | 0x10#16 => 0#31 ++ BitVec.ofBool s.seqRun
  | 0x11#16 => s.seqIdx.setWidth 32
  | 0x12#16 => s.seqPeriod
  | 0x13#16 => s.seqMask
  | 0x14#16 => s.seqEnd.setWidth 32
  | 0x15#16 => s.faultSticky.setWidth 32
  | 0x16#16 => paramsWord s.inst
  | _ => 0

/-- `READ_REG`: the register number is checked before the axis (R240). -/
def execReadReg (axis : Byte) (reg rsv : BitVec 16) (s : State) : Result :=
  command s
    [(decide (rsv ≠ 0), .badOperand), (!isRegister reg, .badOperand),
      (isPerAxis reg && s.badAxis axis, .badAxis), (!isPerAxis reg && decide (axis ≠ 0), .badAxis)]
    (respond (s.regValue axis.toNat reg) s)

end Sys2Proof.Machine
end

