-- ==== Sys2Proof/Machine/Sequencer.lean ====
section
/-! DEFINITION. The multi-axis pulse sequencer (44_sequencer): the loading commands, `SEQ_START`, the four entry kinds, and the end of a tick. The tick itself, which performs the entries of all lanes, is in Machine/Agents.lean. -/

namespace Sys2Proof.Machine

/-- `SEQ_WRITE` (R210). -/
def execSeqWrite (axis : Byte) (index : BitVec 16) (entry : Entry) (rsv : BitVec 14) (s : State) : Result :=
  command s
    [axisCheck s axis, (decide (rsv ≠ 0), .badOperand),
      (decide (s.inst.seqDepth ≤ index.toNat), .seqRange), seqRunCheck s]
    (respond 0 (seqStore axis.toNat index.toNat entry s))

/-- `SEQ_SET_LEN` (R212). -/
def execSeqSetLen (axis : Byte) (len : Nat) (s : State) : Result :=
  command s [axisCheck s axis, (decide (s.inst.seqDepth < len), .seqRange), seqRunCheck s]
    (respond 0 (modAx axis.toNat (fun x => { x with seqLen := len }) s))

/-- `SEQ_SET_PERIOD` (R214). -/
def execSeqSetPeriod (axis : Byte) (period : Int) (s : State) : Result :=
  command s [globalCheck axis, (decide (period ≤ 0), .zeroPeriod), seqRunCheck s]
    (respond 0 { s with seqPeriod := BitVec.ofInt 32 period })

/-- `min { SEQ_LEN[a] : a in mask }`; 0 for no axis (R216). -/
def State.shortest (s : State) : List Nat → Nat
  | [] => 0
  | [a] => (s.ax a).seqLen
  | a :: rest => min (s.ax a).seqLen (s.shortest rest)

/-- Some entry to be played was never written (R216). -/
def State.playsUnwritten (s : State) (lanes : List Nat) (len : Nat) : Bool :=
  lanes.any fun a => (List.range len).any fun i => (s.seqRead a i).isNone

/-- The checks of `SEQ_START`, in order (R216). -/
def seqStartChecks (axis : Byte) (mask : Word) (s : State) : List (Bool × Cause) :=
  let lanes := lanesOf s.inst.nAxes mask
  let len := s.shortest lanes
  [globalCheck axis,
    (maskNamesNoAxis s.inst.nAxes mask, .badOperand),
    seqRunCheck s,
    (lanes.any s.contBusy, .busyContinuous),
    (decide (s.seqPeriod = 0), .zeroPeriod),
    (decide (mask = 0), .seqEmpty),
    (decide (len = 0), .seqEmpty),
    (s.inst.checkEqualLength && lanes.any (fun a => decide ((s.ax a).seqLen ≠ len)), .seqLengthMismatch),
    (s.playsUnwritten lanes len, .seqUnwritten)]

/-- The effect of `SEQ_START`: the first tick comes one period later (R216; R217, the spec's general knowledge:
UNVERIFIED, log entry 19). -/
def seqStartEffect (mask : Word) (s : State) : State :=
  { s with
    seqMask := mask
    seqEnd := BitVec.ofNat 16 (s.shortest (lanesOf s.inst.nAxes mask))
    seqIdx := 0
    seqRun := true
    seqNext := some (s.now + (s.seqPeriod.toNat : Rat)) }

/-- `SEQ_START` (R216). -/
def execSeqStart (axis : Byte) (mask : Word) (s : State) : Result :=
  command s (seqStartChecks axis mask s) (respond 0 (seqStartEffect mask s))

/-- The pin writes of a PulseCommand on an axis (R219 to R222). -/
def playEntry (a : Nat) (e : Entry) (s : State) : State :=
  writeDir a (lvlDir s.inst e.edir) (writeStep a e.pulse s)

/-- Entry `STEP_LO_FWD`, on the lane being performed (R219). -/
def execStepLoFwd (s : State) : Result := .next (playEntry s.lane ⟨false, .fwd⟩ s)

/-- Entry `STEP_HI_FWD`, on the lane being performed (R220). -/
def execStepHiFwd (s : State) : Result := .next (playEntry s.lane ⟨true, .fwd⟩ s)

/-- Entry `STEP_LO_REV`, on the lane being performed (R221). -/
def execStepLoRev (s : State) : Result := .next (playEntry s.lane ⟨false, .rev⟩ s)

/-- Entry `STEP_HI_REV`, on the lane being performed (R222). -/
def execStepHiRev (s : State) : Result := .next (playEntry s.lane ⟨true, .rev⟩ s)

/-- The entry a lane plays at `SEQ_IDX`, decoded. The stored bits of an unwritten cell are unspecified
(20_memory R72): a free value, which no run from reset reads (R216; log entry 7). -/
def State.fetchEntry (s : State) (a : Nat) : Instr :=
  match s.seqRead a s.seqIdx.toNat with
  | some e => e.toInstr
  | none => (Config.freeEntry (cellOf a s.seqIdx.toNat)).toInstr

/-- The pin events of a tick, put in a free order after those before it (R226). `t` is the state in which all
lanes have played. -/
def reorderTick (s t : State) : State :=
  { t with
    trace := s.trace ++ inFreeOrder t.draws (t.trace.drop s.trace.length)
    draws := t.draws + (t.trace.drop s.trace.length).length
    lane := s.lane }

/-- The end of a tick at nominal time `time`: the index advances, and the schedule ends, `SEQ_NEXT` then standing
unread (log entry 16), or goes on (R223, R225). -/
def advanceIndex (time : Time) (s : State) : State :=
  if s.seqIdx + 1 = s.seqEnd then { s with seqIdx := s.seqIdx + 1, seqRun := false }
  else { s with seqIdx := s.seqIdx + 1, seqNext := some (time + (s.seqPeriod.toNat : Rat)) }

end Sys2Proof.Machine
end

