-- ==== Sys2Proof/Machine/Dispatch.lean ====
section
/-! DEFINITION. The meaning of each instruction, one arm a constructor. -/

namespace Sys2Proof.Machine

def exec (i : Instr) (s : State) : Host.Outcome State Fault Refusal :=
  match i with
  | .enable axis => Sys2Proof.Machine.execEnable axis s
  | .disable axis => Sys2Proof.Machine.execDisable axis s
  | .setDirection axis dir rsv => Sys2Proof.Machine.execSetDirection axis dir rsv s
  | .setReference axis mdeg => Sys2Proof.Machine.execSetReference axis mdeg s
  | .goAbs axis mdeg => Sys2Proof.Machine.execGoAbs axis mdeg s
  | .goRel axis mdeg => Sys2Proof.Machine.execGoRel axis mdeg s
  | .setSpeedPw axis width => Sys2Proof.Machine.execSetSpeedPw axis width s
  | .setSpeedRps axis rate => Sys2Proof.Machine.execSetSpeedRps axis rate s
  | .setSpeedSps axis rate => Sys2Proof.Machine.execSetSpeedSps axis rate s
  | .setSpeedRpm axis rate => Sys2Proof.Machine.execSetSpeedRpm axis rate s
  | .contStart axis => Sys2Proof.Machine.execContStart axis s
  | .contStop axis => Sys2Proof.Machine.execContStop axis s
  | .swingStart axis period => Sys2Proof.Machine.execSwingStart axis period s
  | .swingStop axis => Sys2Proof.Machine.execSwingStop axis s
  | .seqWrite axis index entry rsv => Sys2Proof.Machine.execSeqWrite axis index entry rsv s
  | .seqSetLen axis len => Sys2Proof.Machine.execSeqSetLen axis len s
  | .seqSetPeriod axis period => Sys2Proof.Machine.execSeqSetPeriod axis period s
  | .seqStart axis mask => Sys2Proof.Machine.execSeqStart axis mask s
  | .readReg axis reg rsv => Sys2Proof.Machine.execReadReg axis reg rsv s
  | .stepLoFwd => Sys2Proof.Machine.execStepLoFwd s
  | .stepHiFwd => Sys2Proof.Machine.execStepHiFwd s
  | .stepLoRev => Sys2Proof.Machine.execStepLoRev s
  | .stepHiRev => Sys2Proof.Machine.execStepHiRev s

end Sys2Proof.Machine
end

