-- ==== Sys2Proof/Machine/Agents.lean ====
section
/-! DEFINITION. The agents of the block and their interleaving (00_scope R5, 20_memory R80, 60_exceptions R271): when each agent's next step is due, what it does, the choice among several that are due, and the passage of time when none is. -/

namespace Sys2Proof.Machine

/-- Who may take a step: the host presenting a command, the `RESET` input, the command executor, the move engine
(`CMD` while it moves), the sequencer, a swing timer, a generator (00_scope R5). -/
inductive Agent where
  | host
  | rst
  | cmd
  | move
  | seq
  | swg (a : Nat)
  | pwm (a : Nat)
  deriving DecidableEq, Repr

/-- All agents of the instance. -/
def State.agents (s : State) : List Agent :=
  [Agent.host, Agent.rst, Agent.cmd, Agent.move, Agent.seq]
    ++ (List.range s.inst.nAxes).map Agent.swg ++ (List.range s.inst.nAxes).map Agent.pwm

/-- The host presents its next command when the port's lines are free (00_scope R7). DESIGN CHOICE (log entry 2). -/
def State.hostTime (s : State) : Option Time :=
  match s.cmdStream with
  | [] => none
  | c :: _ => if s.cmdValid then none else some c.time

/-- The nominal time of an agent's next step, when it has one: the host's next command (00_scope R7), a change of
`RESET`, the acceptance of a presented command (R7), the end of the move's phase (41_discrete_motion R151),
`SEQ_NEXT` (44_sequencer R223), `AX_SWING_NEXT[a]` (42_continuous_swing R176), the generator's next edge (R174). -/
def State.agentTime (s : State) : Agent → Option Time
  | .host => s.hostTime
  | .rst => s.resetStream.head?.map (fun e => e.time)
  | .cmd => if s.cmdReady && s.cmdValid && !s.resetIn then some s.now else none
  | .move =>
    match s.cmdState with
    | .moving m => some m.phaseEnd
    | .idle => none
    | .busy => none
  | .seq => if s.seqRun then s.seqNext else none
  | .swg a => if (s.ax a).swing then (s.ax a).swingNext else none
  | .pwm a => if (s.ax a).cont then (s.ax a).pwm.bind (fun p => p.wait.map (fun w => p.since + w)) else none

/-- A nominal time has come. -/
def reached (t now : Time) : Bool := decide (t = now) || decide (t < now)

/-- A generator has had time since its start or last edge: its wait is positive, so an edge at the very time of
`since` cannot be due (42_continuous_swing R175). -/
def State.pwmHasRun (s : State) (a : Nat) : Bool :=
  match (s.ax a).pwm with
  | none => false
  | some p => !decide (p.since = s.now)

/-- The agent's next step is due now. -/
def State.isDue (s : State) (g : Agent) : Bool :=
  (match g with
    | .pwm a => s.pwmHasRun a
    | .host | .rst | .cmd | .move | .seq | .swg _ => true)
  && (match s.agentTime g with
    | some t => reached t s.now
    | none => false)

/-- The agents whose next step is due now. -/
def State.due (s : State) : List Agent := s.agents.filter s.isDue

/-- The earliest of some times. -/
def earliest : List Time → Option Time
  | [] => none
  | t :: rest =>
    match earliest rest with
    | none => some t
    | some u => some (if t ≤ u then t else u)

/-- The passage of time to the next nominal event; with none, the block waits (70_reset_and_hazards R290).
DESIGN CHOICE (log entry 10). -/
def passTime (s : State) : State :=
  match earliest (s.agents.filterMap s.agentTime) with
  | none => s
  | some t => if s.now ≤ t then { s with now := t } else s

/-- The host presents a command: the lines are set and the last response is no longer valid (10_state R56). During a
move there is none yet, and the move's own response will be valid until this command is accepted: DESIGN CHOICE
(log entry 25). -/
def presentCommand (s : State) : State :=
  match s.cmdStream with
  | [] => s
  | c :: rest =>
    { s with cmdWord := c.word, cmdArg := c.arg, cmdValid := true, rspValid := false, cmdStream := rest }

/-- A change of the `RESET` input; asserting it resets the block at once (70_reset_and_hazards R290, R291). -/
def resetEdge (s : State) : State :=
  match s.resetStream with
  | [] => s
  | e :: rest =>
    if e.level then resetBlock { s with resetIn := true, resetStream := rest }
    else { s with resetIn := false, resetStream := rest }

/-- The command executor: a presented command is accepted, decoded and performed in one step (30_encoding R101,
70_reset_and_hazards R319). What the decoder refuses is an illegal command (R98). -/
def runCommand (s : State) : Result :=
  match decodeCommand s.cmdWord s.cmdArg with
  | .ok i => exec i (acceptCommand s)
  | .error _ => .next (raiseFault .illegalCommand (acceptCommand s))

/-- The entries of the participating axes at `SEQ_IDX`, each performed on its own lane (44_sequencer R218; the lane
is handed over in a field, log entry 22). -/
def playLanes : List Nat → State → Result
  | [], s => .next s
  | a :: rest, s =>
    match exec (s.fetchEntry a) { s with lane := a } with
    | .next t => playLanes rest t
    | .fault r => .fault r
    | .refused r => .refused r

/-- A tick whose nominal time is `time`, one atomic step (44_sequencer R223). The fault is the model's own
(DESIGN CHOICE, log entry 15). -/
def tick (time : Time) (s : State) : Result :=
  if s.inst.seqDepth ≤ s.seqIdx.toNat then .fault .seqIndexOutsideMemory
  else
    match playLanes s.lanes s with
    | .next t => .next (advanceIndex time (reorderTick s t))
    | .fault r => .fault r
    | .refused r => .refused r

/-- The step of one agent. An agent without a step to take leaves the state as it is; a due agent has one. -/
def perform (g : Agent) (s : State) : Result :=
  match g with
  | .host => .next (presentCommand s)
  | .rst => .next (resetEdge s)
  | .cmd => runCommand s
  | .move =>
    match s.cmdState with
    | .moving m => .next (moveStep m s)
    | .idle => .next s
    | .busy => .next s
  | .seq =>
    match s.seqNext with
    | some t => tick t s
    | none => .next s
  | .swg a =>
    match (s.ax a).swingNext with
    | some t => .next (swingToggle a t s)
    | none => .next s
  | .pwm a =>
    match (s.ax a).pwm with
    | some ⟨since, some wait⟩ => .next (pwmEdge a (since + wait) s)
    | some ⟨_, none⟩ => .next s
    | none => .next s

/-- The block while `RESET` is asserted (70_reset_and_hazards R290; log entry 9). -/
def holdReset (s : State) : State := if s.resetIn then resetBlock s else s

/-- One step of the machine: the one agent that is due, one of several in an order left open
(20_memory R80, 60_exceptions R271), or the passage of time. -/
def nextStep (s : State) : Result :=
  let h := holdReset s
  match h.due with
  | [] => .next (passTime h)
  | [g] => perform g h
  | g :: g' :: rest =>
    perform ((g :: g' :: rest).getD (Config.freeChoice h.draws % (rest.length + 2)) g)
      { h with draws := h.draws + 1 }

/-- A command on the port's input lines, the block ready to accept it. -/
def placeCommand (word arg : Word) (s : State) : State :=
  { s with cmdWord := word, cmdArg := arg, cmdValid := true, cmdState := .idle, resetIn := false }

/-- A one-entry sequence on axis 0 that has been started, its tick due now (44_sequencer R230). -/
def placeEntry (bits : Byte) (s : State) : State :=
  let t := modAx 0 (fun x => { x with seqLen := 1 }) s
  { t with
    mem := memWrite s.mem (cellOf 0 0) bits
    seqMask := 1
    seqEnd := 1
    seqIdx := 0
    seqPeriod := 1
    seqRun := true
    seqNext := some s.now
    resetIn := false }

/-- An encoded instruction placed where the next step fetches it. -/
def placeEncoded (e : Encoded) (s : State) : State :=
  match e with
  | .command word arg => placeCommand word arg s
  | .entry bits => placeEntry bits s

end Sys2Proof.Machine
end

