-- ==== Sys2Proof/Machine/Step.lean ====
section
/-! DEFINITION. The step function, and where it fetches its next instruction. -/

namespace Sys2Proof.Machine

/-- One step of the machine (20_memory R80). -/
def step : State → Host.Outcome State Fault Refusal := fun s => nextStep s

/-- The state with an instruction of the opcode table placed where `step` fetches its next instruction: a command on
the command port's lines, an entry as the started one-entry sequence of axis 0. -/
def State.withFetchWord (s : State) (nbits w : Nat) : State :=
  placeEncoded (encodedOfTableWord nbits w) s

end Sys2Proof.Machine
end

