-- ==== Sys2Proof/Machine/Planner.lean ====
section
/-! DEFINITION. The trajectory-to-pulse planner (43_planner): host-side and pure, the generator of sequence-memory contents. No step of the block reads it. -/

namespace Sys2Proof.Machine

/-- What the planner gives: the entries, the samples it warns about, and the last `y` (R192). -/
structure Plan where
  entries : List Entry
  warnings : List Nat
  y : Rat
  deriving DecidableEq, Repr

/-- `PAIR_FWD` (30_encoding R105, 43_planner R193). -/
def pairFwd : List Entry := [⟨true, .fwd⟩, ⟨false, .fwd⟩]

/-- `PAIR_REV` (30_encoding R105, 43_planner R193). -/
def pairRev : List Entry := [⟨true, .rev⟩, ⟨false, .rev⟩]

/-- A no-change pair in a direction: `HOLD_FWD`, `HOLD_REV` (30_encoding R105, 43_planner R193). -/
def holdPair (d : Dir) : List Entry := [⟨false, d⟩, ⟨false, d⟩]

/-- `x_k = start + k * xDev` (R194). -/
def samplePoint (start xDev : Rat) (k : Nat) : Rat := start + (k : Rat) * xDev

/-- The number `K` of samples in the domain (R194). -/
def sampleCount (start stop xDev : Rat) : Nat := (max 0 ((stop - start) / xDev).floor).toNat

/-- The pair of one sample, with `y` and the held direction after it (R192, R193). -/
def samplePair (fx yDev y : Rat) (d : Dir) : List Entry × Rat × Dir :=
  if yDev ≤ fx - y then (pairFwd, y + yDev, .fwd)
  else if yDev ≤ y - fx then (pairRev, y - yDev, .rev)
  else (holdPair d, y, d)

/-- The samples `k`, `k + 1`, ... of the loop, `n` of them (R192). -/
def planSamples (f : Rat → Rat) (start xDev yDev : Rat) : Nat → Nat → Rat → Dir → Plan
  | 0, _, y, _ => ⟨[], [], y⟩
  | n + 1, k, y, d =>
    let x := samplePoint start xDev k
    let before := samplePoint start xDev (k - 1)
    let pair := samplePair (f x) yDev y d
    let rest := planSamples f start xDev yDev n (k + 1) pair.2.1 pair.2.2
    ⟨pair.1 ++ rest.entries,
      (if 2 * yDev < |f x - f before| then [k] else []) ++ rest.warnings, rest.y⟩

/-- `func_to_pulse` of an instance, in the direction `PLANNER_INITIAL_DIR` until the first step pair (R192, R195,
00_scope R20); a step that is not positive is refused (R191). -/
def funcToPulse (inst : Config.Params) (f : Rat → Rat) (start stop xDev yDev : Rat) : Option Plan :=
  if 0 < xDev ∧ 0 < yDev then
    some (planSamples f start xDev yDev (sampleCount start stop xDev) 1 (f start) inst.plannerInitialDir)
  else none

end Sys2Proof.Machine
end

