-- ==== Sys2Proof/Machine/Assembler.lean ====
section
/-! DEFINITION. The host's side of the encoding (30_encoding R102 to R108, R112): assembler text both ways, the `SEQ_LOAD` pseudo-instruction, and the wire binding of the out-of-scope transceiver as far as this block's boundary goes. No step of the block reads it. What it reads and writes of the text beyond the spec's words is a DESIGN CHOICE (log entry 21). -/

namespace Sys2Proof.Machine

/-- The mnemonic of an instruction (30_encoding R97, R104). -/
def mnemonicOf : Instr → String
  | .enable _ => "ENABLE"
  | .disable _ => "DISABLE"
  | .setDirection _ _ _ => "SET_DIRECTION"
  | .setReference _ _ => "SET_REFERENCE"
  | .goAbs _ _ => "GO_ABS"
  | .goRel _ _ => "GO_REL"
  | .setSpeedPw _ _ => "SET_SPEED_PW"
  | .setSpeedRps _ _ => "SET_SPEED_RPS"
  | .setSpeedSps _ _ => "SET_SPEED_SPS"
  | .setSpeedRpm _ _ => "SET_SPEED_RPM"
  | .contStart _ => "CONT_START"
  | .contStop _ => "CONT_STOP"
  | .swingStart _ _ => "SWING_START"
  | .swingStop _ => "SWING_STOP"
  | .seqWrite _ _ _ _ => "SEQ_WRITE"
  | .seqSetLen _ _ => "SEQ_SET_LEN"
  | .seqSetPeriod _ _ => "SEQ_SET_PERIOD"
  | .seqStart _ _ => "SEQ_START"
  | .readReg _ _ _ => "READ_REG"
  | .stepLoFwd => "STEP_LO_FWD"
  | .stepHiFwd => "STEP_HI_FWD"
  | .stepLoRev => "STEP_LO_REV"
  | .stepHiRev => "STEP_HI_REV"

/-- `MNEMONIC axis` (30_encoding R102). -/
def lineAxis (i : Instr) (axis : Byte) : String := mnemonicOf i ++ " " ++ toString axis.toNat

/-- `MNEMONIC axis, arg` (30_encoding R102). -/
def lineAxisArg (i : Instr) (axis : Byte) (arg : Int) : String :=
  lineAxis i axis ++ ", " ++ toString arg

/-- `MNEMONIC arg`, for a global opcode, whose syntax has no axis (30_encoding R102). -/
def lineArg (i : Instr) (axis : Byte) (arg : Int) : Option String :=
  if axis = 0 then some (mnemonicOf i ++ " " ++ toString arg) else none

/-- An instruction as assembler text (30_encoding R102); `arg` is the raw operand. `none` where the syntax cannot
write the form: a nonzero axis of a global opcode, a set reserved bit of `SEQ_WRITE`. -/
def assemblyText (i : Instr) : Option String :=
  match i with
  | .enable a => some (lineAxis i a)
  | .disable a => some (lineAxis i a)
  | .setDirection a d r => some (lineAxisArg i a (directionArg d r).toNat)
  | .setReference a m => some (lineAxisArg i a m)
  | .goAbs a m => some (lineAxisArg i a m)
  | .goRel a m => some (lineAxisArg i a m)
  | .setSpeedPw a w => some (lineAxisArg i a w)
  | .setSpeedRps a k => some (lineAxisArg i a k)
  | .setSpeedSps a k => some (lineAxisArg i a k)
  | .setSpeedRpm a k => some (lineAxisArg i a k)
  | .contStart a => some (lineAxis i a)
  | .contStop a => some (lineAxis i a)
  | .swingStart a p => some (lineAxisArg i a p)
  | .swingStop a => some (lineAxis i a)
  | .seqWrite a n e r =>
    if r = 0 then some (lineAxisArg i a n.toNat ++ ", " ++ mnemonicOf e.toInstr) else none
  | .seqSetLen a n => some (lineAxisArg i a n)
  | .seqSetPeriod a p => lineArg i a p
  | .seqStart a m => lineArg i a m.toNat
  | .readReg a g r => some (lineAxisArg i a (readRegArg g r).toNat)
  | .stepLoFwd => some (mnemonicOf i)
  | .stepHiFwd => some (mnemonicOf i)
  | .stepLoRev => some (mnemonicOf i)
  | .stepHiRev => some (mnemonicOf i)

/-- `SEQ_LOAD`'s writes from index `i` on (30_encoding R105). -/
def seqLoadWrites (axis : Byte) : Nat → List Entry → List Instr
  | _, [] => []
  | i, e :: rest => .seqWrite axis (BitVec.ofNat 16 i) e 0 :: seqLoadWrites axis (i + 1) rest

/-- `SEQ_LOAD a, [e0, ..., e(n-1)]` expands to `n` writes and the length (30_encoding R105). -/
def seqLoad (axis : Byte) (entries : List Entry) : List Instr :=
  seqLoadWrites axis 0 entries ++ [Instr.seqSetLen axis entries.length]

/-- `SEQ_LOAD` needs `n <= SEQ_DEPTH` (30_encoding R105). -/
def seqLoadFits (p : Config.Params) (entries : List Entry) : Bool :=
  decide (entries.length ≤ p.seqDepth)

/-- Direct emission of entries on one axis: a short sequence (44_sequencer R230). -/
def emitDirectly (axis : Byte) (entries : List Entry) (period : Int) : List Instr :=
  seqLoad axis entries ++ [Instr.seqSetPeriod 0 period, Instr.seqStart 0 (1#32 <<< axis.toNat)]

/-! ### Assembling text (30_encoding R102 to R105) -/

/-- The tokens of an assembler line: words, commas and the brackets of a sequence listing (30_encoding R102, R105). -/
inductive Token where
  | word (cs : List Char)
  | comma
  | listStart
  | listEnd
  deriving DecidableEq, Repr

/-- A word that has ended, put before the tokens after it; `rev` is the word's letters, last first. -/
def endWord (rev : List Char) (rest : List Token) : List Token :=
  match rev with
  | [] => rest
  | c :: cs => .word (c :: cs).reverse :: rest

/-- The tokens of a line, blanks aside. -/
def tokens : List Char → List Char → List Token
  | rev, [] => endWord rev []
  | rev, c :: cs =>
    if c = ' ' then endWord rev (tokens [] cs)
    else if c = ',' then endWord rev (.comma :: tokens [] cs)
    else if c = '[' then endWord rev (.listStart :: tokens [] cs)
    else if c = ']' then endWord rev (.listEnd :: tokens [] cs)
    else tokens (c :: rev) cs

/-- The value of a digit in a base of at most 16. -/
def digitOf (base : Nat) (c : Char) : Option Nat :=
  let v :=
    if 48 ≤ c.toNat ∧ c.toNat ≤ 57 then c.toNat - 48
    else if 65 ≤ c.toNat ∧ c.toNat ≤ 70 then c.toNat - 55
    else if 97 ≤ c.toNat ∧ c.toNat ≤ 102 then c.toNat - 87
    else 16
  if v < base then some v else none

/-- The digits of a number after the value of those before. -/
def digitsOf (base : Nat) : Nat → List Char → Option Nat
  | v, [] => some v
  | v, c :: cs =>
    match digitOf base c with
    | some d => digitsOf base (base * v + d) cs
    | none => none

/-- A number of at least one digit. -/
def natOf (base : Nat) (cs : List Char) : Option Nat := if cs = [] then none else digitsOf base 0 cs

/-- An operand: a decimal integer, optionally negative, or a `0x` hexadecimal word (30_encoding R102). -/
def numberOf : List Char → Option Int
  | '0' :: 'x' :: cs => (natOf 16 cs).map fun n => (n : Int)
  | '-' :: cs => (natOf 10 cs).map fun n => -(n : Int)
  | cs => (natOf 10 cs).map fun n => (n : Int)

/-- How a command is written: with its axis alone, with its axis and an operand, with an operand alone, or with an
axis, an index and an entry (30_encoding R102). -/
inductive LineShape where
  | axis
  | axisArg
  | arg
  | entry
  deriving DecidableEq, Repr

/-- The mnemonics of the commands, their opcodes (30_encoding R97) and their shapes (R102). -/
def commandNames : List (String × Byte × LineShape) :=
  [("ENABLE", 0x01#8, .axis), ("DISABLE", 0x02#8, .axis), ("SET_DIRECTION", 0x03#8, .axisArg),
    ("SET_REFERENCE", 0x04#8, .axisArg), ("GO_ABS", 0x05#8, .axisArg), ("GO_REL", 0x06#8, .axisArg),
    ("SET_SPEED_PW", 0x07#8, .axisArg), ("SET_SPEED_RPS", 0x08#8, .axisArg),
    ("SET_SPEED_SPS", 0x09#8, .axisArg), ("SET_SPEED_RPM", 0x0A#8, .axisArg),
    ("CONT_START", 0x0B#8, .axis), ("CONT_STOP", 0x0C#8, .axis), ("SWING_START", 0x0D#8, .axisArg),
    ("SWING_STOP", 0x0E#8, .axis), ("SEQ_WRITE", 0x10#8, .entry), ("SEQ_SET_LEN", 0x11#8, .axisArg),
    ("SEQ_SET_PERIOD", 0x12#8, .arg), ("SEQ_START", 0x13#8, .arg), ("READ_REG", 0x20#8, .axisArg)]

/-- The mnemonics of the entries (30_encoding R104). -/
def entryNames : List (String × Entry) :=
  [("STEP_LO_FWD", ⟨false, .fwd⟩), ("STEP_HI_FWD", ⟨true, .fwd⟩),
    ("STEP_LO_REV", ⟨false, .rev⟩), ("STEP_HI_REV", ⟨true, .rev⟩)]

/-- The names of a sequence listing: the entries and the pairs (30_encoding R105). -/
def listingNames : List (String × List Entry) :=
  entryNames.map (fun e => (e.1, [e.2])) ++
    [("PAIR_FWD", pairFwd), ("PAIR_REV", pairRev), ("HOLD_FWD", holdPair .fwd), ("HOLD_REV", holdPair .rev)]

/-- What a name stands for in a table. -/
def named {α : Type} : List (String × α) → List Char → Option α
  | [], _ => none
  | (n, v) :: rest, cs => if n.toList = cs then some v else named rest cs

/-- The entries of a listing that is not empty, up to its closing bracket (30_encoding R105). -/
def listing : List Token → Option (List Entry)
  | [.word w, .listEnd] => named listingNames w
  | .word w :: .comma :: rest =>
    match named listingNames w, listing rest with
    | some es, some more => some (es ++ more)
    | _, _ => none
  | _ => none

/-- `CMD_WORD` and `CMD_ARG` of a line: the low 8 bits of the axis, the low 32 of the operand (30_encoding R102). -/
def assembled (op : Byte) (axis : Nat) (arg : Word) : List Encoded :=
  [.command (commandWord op (BitVec.ofNat 8 axis)) arg]

/-- A line with an axis and one operand (30_encoding R102). -/
def assembleAxisArg (m x y : List Char) : Option (List Encoded) :=
  match named commandNames m, natOf 10 x, numberOf y with
  | some (op, .axisArg), some a, some v => some (assembled op a (BitVec.ofInt 32 v))
  | _, _, _ => none

/-- A line with an axis alone, or an operand alone (30_encoding R102). -/
def assembleOne (m x : List Char) : Option (List Encoded) :=
  match named commandNames m with
  | some (op, .axis) => (natOf 10 x).map fun a => assembled op a 0
  | some (op, .arg) => (numberOf x).map fun v => assembled op 0 (BitVec.ofInt 32 v)
  | _ => none

/-- `SEQ_WRITE axis, index, ENTRY` (30_encoding R96, R102); an index has 16 bits. -/
def assembleEntry (m x y z : List Char) : Option (List Encoded) :=
  match named commandNames m, natOf 10 x, numberOf y, named entryNames z with
  | some (op, .entry), some a, some i, some e =>
    if 0 ≤ i ∧ i < 65536 then some (assembled op a (seqWriteArg (BitVec.ofInt 16 i) e 0)) else none
  | _, _, _, _ => none

/-- `SEQ_LOAD a, [e0, ..., e(n-1)]` with `n <= SEQ_DEPTH` (30_encoding R105). -/
def assembleLoad (p : Config.Params) (m x : List Char) (es : Option (List Entry)) :
    Option (List Encoded) :=
  match natOf 10 x, es with
  | some a, some es =>
    if m = "SEQ_LOAD".toList ∧ seqLoadFits p es = true
    then some ((seqLoad (BitVec.ofNat 8 a) es).map encode) else none
  | _, _ => none

/-- The commands a line of assembler text stands for, or `none` where it is no line of R102 or R105. -/
def assembleLine (p : Config.Params) (line : String) : Option (List Encoded) :=
  match tokens [] line.toList with
  | [.word m, .word x] => assembleOne m x
  | [.word m, .word x, .comma, .word y] => assembleAxisArg m x y
  | [.word m, .word x, .comma, .word y, .comma, .word z] => assembleEntry m x y z
  | [.word m, .word x, .comma, .listStart, .listEnd] => assembleLoad p m x (some [])
  | .word m :: .word x :: .comma :: .listStart :: rest => assembleLoad p m x (listing rest)
  | _ => none

/-! ### The wire binding (30_encoding R106 to R112) -/

/-- The methods of the wire table (30_encoding R106). -/
inductive WireMethod where
  | enable
  | disable
  | setReference
  | goToAngleAbsolute
  | goToAngleRelative
  | setSpeedPulseWidth
  | setSpeedRevPerSecond
  | setSpeedStepsPerSecond
  | setSpeedRevPerMinute
  | continuousMoving
  | stopContinuousMoving
  | swing
  | stopSwing
  deriving DecidableEq, Repr

/-- The method's name on the wire (30_encoding R106). -/
def wireName : WireMethod → String
  | .enable => "enable"
  | .disable => "disable"
  | .setReference => "set_reference"
  | .goToAngleAbsolute => "go_to_angle_absolute"
  | .goToAngleRelative => "go_to_angle_relative"
  | .setSpeedPulseWidth => "set_speed_pulse_width"
  | .setSpeedRevPerSecond => "set_speed_rev_per_second"
  | .setSpeedStepsPerSecond => "set_speed_steps_per_second"
  | .setSpeedRevPerMinute => "set_speed_rev_per_minute"
  | .continuousMoving => "continuous_moving"
  | .stopContinuousMoving => "stop_continuous_moving"
  | .swing => "swing"
  | .stopSwing => "stop_swing"

/-- The argument's name on the wire, for a method that has one (30_encoding R106). -/
def wireArgName : WireMethod → Option String
  | .enable => none
  | .disable => none
  | .setReference => some "reference"
  | .goToAngleAbsolute => some "angle"
  | .goToAngleRelative => some "angle"
  | .setSpeedPulseWidth => some "pulse_width"
  | .setSpeedRevPerSecond => some "rev_per_second"
  | .setSpeedStepsPerSecond => some "steps_per_second"
  | .setSpeedRevPerMinute => some "rev_per_minute"
  | .continuousMoving => none
  | .stopContinuousMoving => none
  | .swing => some "period_ms"
  | .stopSwing => none

/-- A wire value in the operand's unit, if it comes out as a 32-bit integer (30_encoding R106, R107). -/
def wireArg (scale v : Rat) : Option Int :=
  if (v * scale).den = 1 ∧ fitsSigned (v * scale).num then some (v * scale).num else none

/-- The command a wire call binds to, for an object bound to `axis`; `none` where the binding refuses it
(30_encoding R106, R107). A method without an argument takes any `v`. -/
def wireCommand (m : WireMethod) (axis : Byte) (v : Rat) : Option Instr :=
  match m with
  | .enable => some (.enable axis)
  | .disable => some (.disable axis)
  | .setReference => (wireArg 1000 v).map (.setReference axis)
  | .goToAngleAbsolute => (wireArg 1000 v).map (.goAbs axis)
  | .goToAngleRelative => (wireArg 1000 v).map (.goRel axis)
  | .setSpeedPulseWidth => (wireArg 1 v).map (.setSpeedPw axis)
  | .setSpeedRevPerSecond => (wireArg 1000 v).map (.setSpeedRps axis)
  | .setSpeedStepsPerSecond => (wireArg 1000 v).map (.setSpeedSps axis)
  | .setSpeedRevPerMinute => (wireArg 1000 v).map (.setSpeedRpm axis)
  | .continuousMoving => some (.contStart axis)
  | .stopContinuousMoving => some (.contStop axis)
  | .swing => (wireArg 1 v).map (.swingStart axis)
  | .stopSwing => some (.swingStop axis)

/-- A call as wire text, for an integer value (30_encoding R106, R108). A method without an argument takes any `v`. -/
def wireText (objectName : String) (m : WireMethod) (v : Int) : String :=
  objectName ++ "." ++ wireName m ++ "(" ++
    (match wireArgName m with
      | some arg => arg ++ "=" ++ toString v
      | none => "") ++ ")"

/-- How a response maps to the transceiver's reply: success with the data, or an error (30_encoding R112). -/
def replySucceeds (s : State) : Option Word := if s.rspStatus = 0 then some s.rspData else none

end Sys2Proof.Machine
end

