-- ==== Sys2Proof/Safety.lean ====
section
/-! DEFINITION. What a good state is, in the terms the statements use: the invariants of 10_state R60 and of the rules of the fields, and what a real output trace may be for a nominal one (00_scope R19). -/

namespace Sys2Proof.Machine

/-- The fields of one axis within their ranges (10_state R34, R35, R39, R41, R45, R60), a running generator with a
latched width and a positive wait (42_continuous_swing R174, R175), a swing with its timer (10_state R38, R40). -/
structure Axis.Good (p : Config.Params) (x : Axis) : Prop where
  ref_nonneg : 0 ≤ x.ref
  ref_lt : x.ref < 360
  pw_floor : 25 ≤ x.pw
  pw_max : x.pw ≤ 4294967295
  seqLen_le : x.seqLen ≤ p.seqDepth
  enPin_eq : x.enPin = lvlEn p x.en
  swing_ms : x.swing = true → 1 ≤ x.swingMs
  swing_ms_max : x.swingMs ≤ 2147483647
  swing_timer : x.swing = true → x.swingNext.isSome = true
  cont_pwm : x.cont = x.pwm.isSome
  cont_width : x.cont = true → 25 ≤ x.contPw ∧ x.contPw ≤ 4294967295
  pwm_wait : ∀ p, x.pwm = some p → ∀ w, p.wait = some w → 0 < w

/-- While a sequence runs: what `SEQ_START` checked still holds (10_state R47 to R52, R60, 20_memory R84). -/
structure State.SeqGood (s : State) : Prop where
  period : 1 ≤ s.seqPeriod.toNat
  mask_ne : s.seqMask ≠ 0
  idx_lt : s.seqIdx.toNat < s.seqEnd.toNat
  timer : s.seqNext.isSome = true
  not_busy : ∀ a ∈ s.lanes, s.contBusy a = false
  long_enough : ∀ a ∈ s.lanes, s.seqEnd.toNat ≤ (s.ax a).seqLen
  written : ∀ a ∈ s.lanes, ∀ i, i < s.seqEnd.toNat → (s.seqRead a i).isSome = true

/-- While a move runs on an axis: the axis exists, has steps left, and no other agent drives it
(10_state R55, R60, 41_discrete_motion R156). -/
structure State.MoveGood (s : State) (m : Move) : Prop where
  axis_lt : m.axis < s.inst.nAxes
  remaining_pos : 1 ≤ m.remaining
  width_eq : m.width = (s.ax m.axis).pw
  not_busy : s.contBusy m.axis = false
  not_seq : s.seqOwns m.axis = false

/-- The invariant of the block (10_state R60 and the rules of its fields). -/
structure State.Inv (s : State) : Prop where
  inst_wf : s.inst.wf = true
  axes_length : s.axes.length = s.inst.nAxes
  axis_good : ∀ a, a < s.inst.nAxes → (s.ax a).Good s.inst
  mem_wf : Memory.wf s.mem = true
  mem_in_range : ∀ c ∈ s.mem, c.1 / 65536 < s.inst.nAxes ∧ c.1 % 65536 < s.inst.seqDepth
  mask_fits : maskNamesNoAxis s.inst.nAxes s.seqMask = false
  end_le : s.seqEnd.toNat ≤ s.inst.seqDepth
  seq_good : s.seqRun = true → s.SeqGood
  move_good : ∀ m, s.cmdState = .moving m → s.MoveGood m
  not_busy : s.cmdState ≠ .busy
  codes : (s.rspValid = true → s.rspStatus.toNat ≤ 11) ∧ s.faultSticky.toNat ≤ 11

/-- No nominal event lies in the past: the steps of the agents that time schedules come in the order of their
nominal times (20_memory R80). The host's commands may wait for the port, so they are not among them. -/
def State.OnTime (s : State) : Prop :=
  ∀ g t, g ∈ s.agents → g ≠ .host → g ≠ .rst → s.agentTime g = some t → s.now ≤ t

/-- `b` is the machine after some number of steps from `a`. -/
inductive Reaches : State → State → Prop where
  | refl (s : State) : Reaches s s
  | tail {a b c : State} : Reaches a b → step b = .next c → Reaches a c

/-- A real output trace may be `actual` where the nominal one is `nominal`: the same pins and levels, each event
within `TIMING_JITTER` of its nominal time (00_scope R19). -/
def RealTrace (p : Config.Params) (nominal actual : List PinEvent) : Prop :=
  List.Forall₂ (fun n r => n.pin = r.pin ∧ n.level = r.level ∧ |r.time - n.time| ≤ p.timingJitter)
    nominal actual

/-! ### What a command did, in the terms of the frame statements -/

/-- The machine has as many axes as the instance says. -/
abbrev State.Shaped (s : State) : Prop := s.axes.length = s.inst.nAxes

/-- The port stands idle with a response (00_scope R7, 10_state R56). -/
structure Answers (t : State) (status : BitVec 4) (data : Word) : Prop where
  idle : t.cmdState = .idle
  status_eq : t.rspStatus = status
  data_eq : t.rspData = data
  valid : t.rspValid = true

/-- The parameters, the inputs, the clock and the model's own fields, but for the trace and the draws. -/
structure SameWorld (s t : State) : Prop where
  inst : t.inst = s.inst
  cmdWord : t.cmdWord = s.cmdWord
  cmdArg : t.cmdArg = s.cmdArg
  cmdValid : t.cmdValid = s.cmdValid
  resetIn : t.resetIn = s.resetIn
  now : t.now = s.now
  lane : t.lane = s.lane
  cmdStream : t.cmdStream = s.cmdStream
  resetStream : t.resetStream = s.resetStream

/-- The global sequencer fields (10_state R47 to R52). -/
structure SameSequencer (s t : State) : Prop where
  run : t.seqRun = s.seqRun
  idx : t.seqIdx = s.seqIdx
  period : t.seqPeriod = s.seqPeriod
  mask : t.seqMask = s.seqMask
  fin : t.seqEnd = s.seqEnd
  next : t.seqNext = s.seqNext

/-- Every place of the sequence memory reads as before. -/
def SameMemory (s t : State) : Prop := ∀ k, memRead t.mem k = memRead s.mem k

/-- Every axis is as before. -/
def SameAxes (s t : State) : Prop := t.axes.length = s.axes.length ∧ ∀ b, t.ax b = s.ax b

/-- Axis `a` is now `x`, and every other axis is as before. -/
structure OnlyAxis (s t : State) (a : Nat) (x : Axis) : Prop where
  here : t.ax a = x
  others : ∀ b, b ≠ a → t.ax b = s.ax b
  length : t.axes.length = s.axes.length

/-- No pin event, no draw, no fault recorded. -/
structure Silent (s t : State) : Prop where
  trace : t.trace = s.trace
  draws : t.draws = s.draws
  sticky : t.faultSticky = s.faultSticky

/-- A per-axis command completed: axis `a` is now `x`, the pin events `events` were recorded and `drawn` free
values drawn, the answer is `OK` with data 0, and nothing else changed. -/
structure AxisCommandDid (s t : State) (a : Nat) (x : Axis) (events : List PinEvent) (drawn : Nat) :
    Prop where
  axis : OnlyAxis s t a x
  answer : Answers t 0 0
  sequencer : SameSequencer s t
  memory : SameMemory s t
  world : SameWorld s t
  trace : t.trace = s.trace ++ events
  draws : t.draws = s.draws + drawn
  sticky : t.faultSticky = s.faultSticky

/-- A discrete move of `n` steps began on axis `a`: the first pulse is up, the move record holds the axis's width,
no response is presented, and nothing else changed (41_discrete_motion R150). -/
structure MoveBegan (s t : State) (a n : Nat) : Prop where
  record : t.cmdState = .moving ⟨a, n, .high, s.now + ((s.ax a).pw : Rat), (s.ax a).pw⟩
  axis : OnlyAxis s t a { s.ax a with stepPin := true }
  trace : t.trace = s.trace ++ [⟨s.now, .step a, true⟩]
  rspStatus : t.rspStatus = s.rspStatus
  rspData : t.rspData = s.rspData
  rspValid : t.rspValid = s.rspValid
  sequencer : SameSequencer s t
  memory : SameMemory s t
  world : SameWorld s t
  draws : t.draws = s.draws
  sticky : t.faultSticky = s.faultSticky

/-- A command faulted with cause `c` and had no other effect (60_exceptions R261, R264, R265). -/
structure Faulted (s t : State) (c : Cause) : Prop where
  answer : Answers t c.code 0
  sticky : t.faultSticky = if s.faultSticky = 0 then c.code else s.faultSticky
  axes : SameAxes s t
  sequencer : SameSequencer s t
  memory : SameMemory s t
  world : SameWorld s t
  trace : t.trace = s.trace
  draws : t.draws = s.draws

/-- Nothing runs but what `cmdState` and `seqRun` say: no host input is to come, no generator and no swing timer runs. -/
structure State.Quiet (s : State) : Prop where
  no_reset : s.resetIn = false
  no_command : s.cmdValid = false
  no_commands : s.cmdStream = []
  no_resets : s.resetStream = []
  no_motion : ∀ a, a < s.inst.nAxes → s.contBusy a = false

end Sys2Proof.Machine
end

