-- ==== Sys2Proof/Certificates/Slice0/Obligations.lean ====
section
/-! DEFINITION. The statements for the provers, in the order of the spec's files: encoding, the commands and entries, the agents, faults, readback, the whole machine, reset, and the host-side planner. -/

open Sys2Proof Sys2Proof.Machine

/-! ### Encoding (30_encoding) -/

/-- Decode and encode agree, for every instruction with an encoding (30_encoding R91, R93, R95, R96, R97). -/
def Obligations.DecodeOfEncode : Prop :=
  ∀ i : Instr, i.wf = true → decode (encode i) = .ok i

/-- What the decoder reads from a command is well formed, is no entry, and encodes back to the very word; the
operand too, unless the opcode ignores it (30_encoding R93, last row). -/
def Obligations.EncodeOfDecode : Prop :=
  ∀ (word arg : Word) (i : Instr), decodeCommand word arg = .ok i →
    i.wf = true ∧ i.isEntry = false ∧
      (if opField word ∈ [0x01#8, 0x02#8, 0x0B#8, 0x0C#8, 0x0E#8] then encode i = .command word 0
        else encode i = .command word arg)

/-- The illegal commands are exactly those with `RSV != 0` and those whose `OP` is 0x00, 0x0F, 0x14 to 0x1F or
0x21 to 0xFF, the all-zero word among them, and a step that runs one answers `ILLEGAL_COMMAND` and, its acceptance
aside, changes nothing but `FAULT_STICKY` (30_encoding R98). -/
def Obligations.IllegalCommandsAreRefused : Prop :=
  (∀ word arg : Word, (∃ e, decodeCommand word arg = .error e) ↔
      (word >>> 16 ≠ 0 ∨ (word &&& 0xFF = 0) ∨ (word &&& 0xFF = 0x0F)
        ∨ (0x14 ≤ (word &&& 0xFF).toNat ∧ (word &&& 0xFF).toNat ≤ 0x1F)
        ∨ (0x21 ≤ (word &&& 0xFF).toNat)))
    ∧ ∀ (s : State) (e : DecodeError), s.resetIn = false → s.due = [.cmd] →
        decodeCommand s.cmdWord s.cmdArg = .error e →
        ∃ t, step s = .next t ∧ Faulted (acceptCommand s) t .illegalCommand

/-- Words written out from the tables of the spec decode to the instructions they stand for: one of each family
(30_encoding R97, R103, R104). -/
def Obligations.SampleWordsDecode : Prop :=
  decodeCommand 0x00000001#32 0#32 = .ok (.enable 0)
    ∧ decodeCommand 0x00000106#32 0x00015F90#32 = .ok (.goRel 1 90000)
    ∧ decodeCommand 0x00000004#32 0xFFFFFC18#32 = .ok (.setReference 0 (-1000))
    ∧ decodeCommand 0x0000000D#32 0x000003E8#32 = .ok (.swingStart 0 1000)
    ∧ decodeCommand 0x00000110#32 0x00030005#32 = .ok (.seqWrite 1 5 ⟨true, .rev⟩ 0)
    ∧ decodeCommand 0x00000013#32 0x00000003#32 = .ok (.seqStart 0 3)
    ∧ decodeCommand 0x00000020#32 0x00000015#32 = .ok (.readReg 0 0x15 0)
    ∧ decodeEntry 0x02#8 = .ok .stepLoRev

/-! ### Axis configuration (40_axis_config) -/

/-- The wrap into `[0, 360)` changes an angle by whole turns only (00_scope R24, 41_discrete_motion R152). -/
def Obligations.WrapStaysInTheTurn : Prop :=
  ∀ q : Rat, 0 ≤ wrap360 q ∧ wrap360 q < 360 ∧ ∃ k : Int, wrap360 q = q - 360 * (k : Rat)

/-- `clamp_pw` (40_axis_config R124): between the bounds it is the floor, below 25 it is 25, above the field it
saturates; for a positive quotient floor and truncation agree, and what is not positive clamps to 25 either way.
Every speed setter that answers `OK` stores the clamp of a quotient. -/
def Obligations.ClampFollowsItsRule : Prop :=
  (∀ q : Rat,
    ((clampPw q : Nat) : Int) = min (2 ^ 32 - 1) (max 25 ⌊q⌋)
      ∧ (0 < q → ⌊q⌋ = Int.tdiv q.num (q.den : Int))
      ∧ (q ≤ 0 → clampPw q = 25 ∧ max 25 (Int.tdiv q.num (q.den : Int)) = 25))
    ∧ ∀ (s t : State) (axis : Byte) (k : Int) (i : Instr), s.Shaped →
      i ∈ [Instr.setSpeedPw axis k, .setSpeedSps axis k, .setSpeedRps axis k, .setSpeedRpm axis k] →
      exec i s = .next t → t.rspStatus = 0 → ∃ q : Rat, (t.ax axis.toNat).pw = clampPw q

/-- `ENABLE` and `DISABLE` complete on every axis in every state, and write only `AX_EN[a]` and `EN[a]`; their one
fault is an axis that does not exist, and they are the words `{16'b0, a, 0x01}` and `{16'b0, a, 0x02}` with any
operand (40_axis_config R120, R121). -/
def Obligations.EnableAndDisableComplete : Prop :=
  (∀ (s : State) (axis : Byte), s.Shaped → axis.toNat < s.inst.nAxes →
    (∃ t, exec (.enable axis) s = .next t ∧
      AxisCommandDid s t axis.toNat
        { s.ax axis.toNat with en := true, enPin := s.inst.enLevelOn }
        [⟨s.now, .en axis.toNat, s.inst.enLevelOn⟩] 0)
    ∧ (∃ t, exec (.disable axis) s = .next t ∧
      AxisCommandDid s t axis.toNat
        { s.ax axis.toNat with en := false, enPin := !s.inst.enLevelOn }
        [⟨s.now, .en axis.toNat, !s.inst.enLevelOn⟩] 0))
  ∧ (∀ (s : State) (axis : Byte), s.inst.nAxes ≤ axis.toNat →
    (∃ t, exec (.enable axis) s = .next t ∧ Faulted s t .badAxis)
    ∧ (∃ t, exec (.disable axis) s = .next t ∧ Faulted s t .badAxis))
  ∧ ∀ (axis : Byte) (arg : Word),
    decodeCommand (0#16 ++ axis ++ 0x01#8) arg = .ok (.enable axis)
    ∧ decodeCommand (0#16 ++ axis ++ 0x02#8) arg = .ok (.disable axis)

/-- `SET_DIRECTION` completes unless the sequencer owns the axis, and writes only `AX_DIR[a]` and `DIR[a]`
(40_axis_config R122). -/
def Obligations.SetDirectionCompletes : Prop :=
  ∀ (s : State) (axis : Byte) (dir : Dir), s.Shaped → axis.toNat < s.inst.nAxes →
    s.seqOwns axis.toNat = false →
    ∃ t, exec (.setDirection axis dir 0) s = .next t ∧
      AxisCommandDid s t axis.toNat
        { s.ax axis.toNat with
          dir := dir
          dirPin := if dir = .fwd then s.inst.dirLevelFwd else !s.inst.dirLevelFwd }
        [⟨s.now, .dir axis.toNat, if dir = .fwd then s.inst.dirLevelFwd else !s.inst.dirLevelFwd⟩] 0

/-- `SET_REFERENCE` completes in every state: the reference is the operand in degrees, less whole turns, in
`[0, 360)`, and nothing else changes, no pin among it; its one fault is an axis that does not exist, and it is the
word `{16'b0, a, 0x04}` with the operand read as `sext_32` (40_axis_config R123). -/
def Obligations.SetReferenceCompletes : Prop :=
  (∀ (s : State) (axis : Byte) (mdeg : Int), s.Shaped → axis.toNat < s.inst.nAxes →
    ∃ (t : State) (r : Rat) (k : Int), exec (.setReference axis mdeg) s = .next t
      ∧ 0 ≤ r ∧ r < 360 ∧ r = (mdeg : Rat) / 1000 - 360 * (k : Rat)
      ∧ AxisCommandDid s t axis.toNat { s.ax axis.toNat with ref := r } [] 0)
  ∧ (∀ (s : State) (axis : Byte) (mdeg : Int), s.inst.nAxes ≤ axis.toNat →
    ∃ t, exec (.setReference axis mdeg) s = .next t ∧ Faulted s t .badAxis)
  ∧ ∀ (axis : Byte) (arg : Word),
    decodeCommand (0#16 ++ axis ++ 0x04#8) arg = .ok (.setReference axis arg.toInt)

/-- The four speed setters complete for every rate but 0 and store the clamped width of their formula; the running
generator's width goes with it exactly when `LIVE_PWM_UPDATE` is true, and nothing else changes
(40_axis_config R125 to R128, R130, R131). -/
def Obligations.SpeedSettersComplete : Prop :=
  ∀ (s : State) (axis : Byte) (k : Int), s.Shaped → axis.toNat < s.inst.nAxes →
    let a := axis.toNat
    let stored (q : Rat) : Axis := { s.ax a with
      pw := clampPw q
      contPw := if s.inst.livePwmUpdate = true ∧ (s.ax a).cont = true then clampPw q
        else (s.ax a).contPw }
    (∃ t, exec (.setSpeedPw axis k) s = .next t ∧ AxisCommandDid s t a (stored (k : Rat)) [] 0)
    ∧ (k ≠ 0 →
      (∃ t, exec (.setSpeedSps axis k) s = .next t ∧
        AxisCommandDid s t a (stored (500000000 / (k : Rat))) [] 0)
      ∧ (∃ t, exec (.setSpeedRps axis k) s = .next t ∧
        AxisCommandDid s t a (stored (500000000 / ((k : Rat) * s.ratio a))) [] 0)
      ∧ (∃ t, exec (.setSpeedRpm axis k) s = .next t ∧
        AxisCommandDid s t a (stored (30000000000 / ((k : Rat) * s.ratio a))) [] 0))

/-! ### Discrete motion (41_discrete_motion) -/

/-- The step count is `max(0, floor(rel / 360 * REV_RATIO[a]))`, 0 for a negative angle, and at most
`floor((2^31 - 1) / 360000 * REV_RATIO[a])` for an operand of `GO_REL`; the move record holds it exactly, with no
width limit (41_discrete_motion R153). -/
def Obligations.StepCountIsTheFloor : Prop :=
  (∀ ratio rel : Rat, 0 < ratio →
    ((stepCount ratio rel : Nat) : Int) = max 0 ⌊rel / 360 * ratio⌋
    ∧ (rel < 0 → stepCount ratio rel = 0)
    ∧ ∀ mdeg : Int, mdeg ≤ 2 ^ 31 - 1 →
      ((stepCount ratio ((mdeg : Rat) / 1000) : Nat) : Int) ≤ ⌊((2 : Rat) ^ 31 - 1) / 360000 * ratio⌋)
  ∧ ∀ (s t : State) (axis : Byte) (mdeg : Int) (m : Move),
    exec (.goRel axis mdeg) s = .next t → t.cmdState = .moving m →
    (m.remaining : Int) = max 0 ⌊(mdeg : Rat) / 1000 / 360 * s.ratio axis.toNat⌋

/-- The relative angle of an absolute move, and its range for a reference in `[0, 360)`
(41_discrete_motion R158, R160). -/
def Obligations.RelativeAngleIsDirectionSticky : Prop :=
  ∀ ref t : Rat,
    relAngle .fwd ref t = (if t ≥ ref then t - ref else t + 360 - ref)
    ∧ relAngle .rev ref t = (if ref ≥ t then ref - t else ref + 360 - t)
    ∧ (0 ≤ ref → ref < 360 →
      (0 ≤ t → t < 360 → ∀ d, 0 ≤ relAngle d ref t ∧ relAngle d ref t < 360)
      ∧ (360 < t → relAngle .fwd ref t = t - ref)
      ∧ (t < 0 → relAngle .fwd ref t = t + 360 - ref ∧ (relAngle .fwd ref t < 0 ↔ t < ref - 360)
          ∧ relAngle .rev ref t = ref - t ∧ 0 < relAngle .rev ref t))

/-- The reference after `n` steps is exactly the wrapped sum, with no accumulated rounding
(41_discrete_motion R152). -/
def Obligations.ReferenceAfterStepsIsExact : Prop :=
  ∀ (ratio r0 : Rat) (n : Nat), 0 ≤ r0 → r0 < 360 →
    (refAfterStep ratio .fwd)^[n] r0 = wrap360 (r0 + n * (360 / ratio))
    ∧ (refAfterStep ratio .rev)^[n] r0 = wrap360 (r0 - n * (360 / ratio))

/-- `GO_REL` and `GO_ABS` complete on an axis nobody else drives: with no step to take they answer at once and
change nothing, otherwise the move begins; `DIR[a]` is not written (41_discrete_motion R150, R157, R161). -/
def Obligations.MovesBegin : Prop :=
  ∀ (s : State) (axis : Byte) (mdeg : Int), s.Shaped → axis.toNat < s.inst.nAxes →
    s.seqOwns axis.toNat = false → s.contBusy axis.toNat = false →
    let a := axis.toNat
    let outcome (i : Instr) (n : Nat) : Prop :=
      ∃ t, exec i s = .next t ∧
        if n = 0 then AxisCommandDid s t a (s.ax a) [] 0 else MoveBegan s t a n
    outcome (.goRel axis mdeg) (stepCount (s.ratio a) ((mdeg : Rat) / 1000))
    ∧ outcome (.goAbs axis mdeg)
        (stepCount (s.ratio a) (relAngle (s.ax a).dir (s.ax a).ref ((mdeg : Rat) / 1000)))

/-- The two edges of the move engine: at the end of the high phase the pulse falls; at the end of the low phase the
reference moves by one step in the axis's direction and the move ends with its response or the next pulse
rises (41_discrete_motion R151, R152, R155). -/
def Obligations.MoveEngineEdges : Prop :=
  ∀ (s : State) (m : Move), s.Shaped → m.axis < s.inst.nAxes → (s.ax m.axis).cont = false →
    s.cmdState = .moving m →
    ∃ t, perform .move s = .next t ∧ SameSequencer s t ∧ SameMemory s t ∧ SameWorld s t
      ∧ t.draws = s.draws ∧ t.faultSticky = s.faultSticky ∧
      (m.phase = .high →
        t.cmdState = .moving { m with phase := .low, phaseEnd := m.phaseEnd + (m.width : Rat) }
        ∧ OnlyAxis s t m.axis { s.ax m.axis with stepPin := false }
        ∧ t.trace = s.trace ++ [⟨s.now, .step m.axis, false⟩]
        ∧ t.rspValid = s.rspValid ∧ t.rspStatus = s.rspStatus ∧ t.rspData = s.rspData)
      ∧ (m.phase = .low → m.remaining = 1 →
        Answers t 0 0 ∧ t.trace = s.trace
        ∧ OnlyAxis s t m.axis { s.ax m.axis with
            ref := refAfterStep (s.ratio m.axis) (s.ax m.axis).dir (s.ax m.axis).ref })
      ∧ (m.phase = .low → 2 ≤ m.remaining →
        t.cmdState = .moving { m with
          remaining := m.remaining - 1, phase := .high, phaseEnd := m.phaseEnd + (m.width : Rat) }
        ∧ t.trace = s.trace ++ [⟨s.now, .step m.axis, true⟩]
        ∧ OnlyAxis s t m.axis { s.ax m.axis with
            stepPin := true
            ref := refAfterStep (s.ratio m.axis) (s.ax m.axis).dir (s.ax m.axis).ref }
        ∧ t.rspValid = s.rspValid ∧ t.rspStatus = s.rspStatus ∧ t.rspData = s.rspData)

/-- A move of `n` steps of width `w`, alone, runs to its end in `4 n` steps of the machine (a passage of time and an
edge for each half of each step): the port is busy for `n * 2 * w` microseconds, step `k` raises the pulse at
`t0 + 2 k w` and lowers it at `t0 + (2 k + 1) w`, the reference moves by `n` steps, and the response `OK`
comes with the last (41_discrete_motion R151 to R155, 70_reset_and_hazards R315). That a step is either an agent's or
a passage of time is the model's choice (log entry 10). -/
def Obligations.MoveRunsToItsEnd : Prop :=
  ∀ (s : State) (m : Move), s.Inv → s.Quiet → s.seqRun = false → s.cmdState = .moving m →
    m.phase = .high → m.phaseEnd = s.now + (m.width : Rat) →
    let a := m.axis
    let n := m.remaining
    let w : Rat := (m.width : Rat)
    ∃ t, Sys2Proof.core.run (4 * n) s = .next t
      ∧ t.now = s.now + n * 2 * w
      ∧ Answers t 0 0
      ∧ OnlyAxis s t a { s.ax a with
          stepPin := false
          ref := (refAfterStep (s.ratio a) (s.ax a).dir)^[n] (s.ax a).ref }
      ∧ t.trace = s.trace ++ ((List.range (2 * n - 1)).map fun j =>
          ⟨s.now + ((j : Rat) + 1) * w, .step a, decide (j % 2 = 1)⟩)
      ∧ SameSequencer s t ∧ SameMemory s t ∧ t.faultSticky = s.faultSticky ∧ t.draws = s.draws

/-! ### Continuous moving and swing (42_continuous_swing) -/

/-- `CONT_START` and `SWING_START` complete on an axis the sequencer does not own: the generator runs at the axis's
width from a level and a first edge left open, within one half-period, whatever the free values of log entry 4 are;
a swing's first toggle comes one period later. `AX_EN`, `AX_DIR` and `AX_REF` stay
(42_continuous_swing R170, R172, R175). That the start level is recorded as a pin event is the model's choice (log
entry 17), and so is the one draw (log entry 4). -/
def Obligations.GeneratorStarts : Prop :=
  ∀ (s : State) (axis : Byte), s.Shaped → axis.toNat < s.inst.nAxes →
    s.seqOwns axis.toNat = false →
    let a := axis.toNat
    let running (level : Bool) (wait : Rat) : Axis := { s.ax a with
      contPw := (s.ax a).pw
      cont := true
      stepPin := level
      pwm := some ⟨s.now, some wait⟩ }
    (∃ (t : State) (level : Bool) (wait : Rat), exec (.contStart axis) s = .next t
      ∧ 0 ≤ wait ∧ wait ≤ ((s.ax a).pw : Rat)
      ∧ AxisCommandDid s t a (running level wait) [⟨s.now, .step a, level⟩] 1)
    ∧ ∀ period : Int, 0 < period →
      ∃ (t : State) (level : Bool) (wait : Rat), exec (.swingStart axis period) s = .next t
        ∧ 0 ≤ wait ∧ wait ≤ ((s.ax a).pw : Rat)
        ∧ AxisCommandDid s t a { running level wait with
            swing := true
            swingMs := period.toNat
            swingNext := some (s.now + 1000 * (period : Rat)) } [⟨s.now, .step a, level⟩] 1

/-- `CONT_STOP` and `SWING_STOP` complete on an axis the sequencer does not own, running or not: the generator stops
and the step output is static low at once; the swing timer goes on after `CONT_STOP` unless
`STOP_CONT_CANCELS_SWING` is true, and stops at `SWING_STOP`; nothing else is reverted
(42_continuous_swing R171, R173, R175). -/
def Obligations.GeneratorStops : Prop :=
  ∀ (s : State) (axis : Byte), s.Shaped → axis.toNat < s.inst.nAxes →
    s.seqOwns axis.toNat = false →
    let a := axis.toNat
    let stopped (swing : Bool) : Axis := { s.ax a with
      cont := false, pwm := none, stepPin := false, swing := swing }
    (∃ t, exec (.contStop axis) s = .next t ∧
      AxisCommandDid s t a
        (stopped (if s.inst.stopContCancelsSwing = true then false else (s.ax a).swing))
        [⟨s.now, .step a, false⟩] 0)
    ∧ ∃ t, exec (.swingStop axis) s = .next t ∧
      AxisCommandDid s t a (stopped false) [⟨s.now, .step a, false⟩] 0

/-- A toggle of the swing timer flips the direction and the direction output with it, and schedules the next toggle
one period later (42_continuous_swing R176); the reference is not tracked (R177). -/
def Obligations.SwingToggles : Prop :=
  ∀ (s : State) (a : Nat) (t0 : Time), s.Shaped → a < s.inst.nAxes → (s.ax a).swingNext = some t0 →
    ∃ t, perform (.swg a) s = .next t
      ∧ OnlyAxis s t a { s.ax a with
          dir := if (s.ax a).dir = .fwd then .rev else .fwd
          dirPin := if (s.ax a).dir = .fwd then !s.inst.dirLevelFwd else s.inst.dirLevelFwd
          swingNext := some (t0 + 1000 * ((s.ax a).swingMs : Rat)) }
      ∧ t.trace = s.trace ++
          [⟨s.now, .dir a, if (s.ax a).dir = .fwd then !s.inst.dirLevelFwd else s.inst.dirLevelFwd⟩]
      ∧ SameSequencer s t ∧ SameMemory s t ∧ SameWorld s t ∧ t.cmdState = s.cmdState
      ∧ t.rspStatus = s.rspStatus ∧ t.rspData = s.rspData ∧ t.rspValid = s.rspValid
      ∧ t.draws = s.draws ∧ t.faultSticky = s.faultSticky

/-- Two edges of a generator in a row, a half-period `h` apart: each inverts the step output, so a low and a high
phase of `h` make one period of `2 * h`, 50% duty, at the actual frequency `PWM_FREQ_QUANT(F)`, which is `AX_CONT_PW[a]`
a half where that is the nominal one (42_continuous_swing R174); the reference is not tracked (R177). The model's
choices are that an edge is recorded as a pin event (log entry 17), and that it comes at the actual frequency, with
no further edge where that is not positive (log entry 8). -/
def Obligations.GeneratorIsASquareWave : Prop :=
  (∀ (s : State) (a : Nat) (since : Time) (wait : Rat), s.Shaped → a < s.inst.nAxes →
    (s.ax a).pwm = some ⟨since, some wait⟩ → s.now = since + wait →
    let half := halfPeriod (s.ax a).contPw
    let edge (u v : State) (level : Bool) : Prop :=
      perform (.pwm a) u = .next v
        ∧ OnlyAxis u v a { u.ax a with stepPin := level, pwm := some ⟨u.now, half⟩ }
        ∧ v.trace = u.trace ++ [⟨u.now, .step a, level⟩]
        ∧ SameSequencer u v ∧ SameMemory u v ∧ SameWorld u v ∧ v.cmdState = u.cmdState
        ∧ v.rspStatus = u.rspStatus ∧ v.rspData = u.rspData ∧ v.rspValid = u.rspValid
        ∧ v.faultSticky = u.faultSticky ∧ v.draws = u.draws
    ∃ t, edge s t (!(s.ax a).stepPin)
      ∧ ∀ h, half = some h → ∃ u, edge { t with now := s.now + h } u (s.ax a).stepPin)
  ∧ ∀ width : Nat,
    (∀ h, halfPeriod width = some h → 0 < h ∧ 2 * h * actualFreq width = 1000000)
    ∧ (halfPeriod width).isSome = decide (0 < actualFreq width)
    ∧ (0 < width → actualFreq width = 500000 / (width : Rat) → halfPeriod width = some (width : Rat))

/-! ### Multi-axis pulse sequencer (44_sequencer) -/

/-- `SEQ_WRITE` completes when no sequence runs: the entry reads back as written, every other place of the memory as
before, and nothing else changes (44_sequencer R210, R211). -/
def Obligations.SeqWriteStoresOneEntry : Prop :=
  ∀ (s : State) (axis : Byte) (index : BitVec 16) (entry : Entry), axis.toNat < s.inst.nAxes →
    index.toNat < s.inst.seqDepth → s.seqRun = false →
    ∃ t, exec (.seqWrite axis index entry 0) s = .next t ∧ Answers t 0 0
      ∧ t.seqRead axis.toNat index.toNat = some entry
      ∧ (∀ k, k ≠ cellOf axis.toNat index.toNat → memRead t.mem k = memRead s.mem k)
      ∧ SameAxes s t ∧ SameSequencer s t ∧ SameWorld s t ∧ Silent s t

/-- `SEQ_SET_LEN` and `SEQ_SET_PERIOD` complete when no sequence runs (44_sequencer R212, R214). -/
def Obligations.SeqLengthAndPeriodAreSet : Prop :=
  (∀ (s : State) (axis : Byte) (len : Nat), s.Shaped → axis.toNat < s.inst.nAxes →
    len ≤ s.inst.seqDepth → s.seqRun = false →
    ∃ t, exec (.seqSetLen axis len) s = .next t
      ∧ AxisCommandDid s t axis.toNat { s.ax axis.toNat with seqLen := len } [] 0)
  ∧ ∀ (s : State) (period : Int), 0 < period → period ≤ 2147483647 → s.seqRun = false →
    ∃ t, exec (.seqSetPeriod 0 period) s = .next t ∧ Answers t 0 0
      ∧ (t.seqPeriod.toNat : Int) = period
      ∧ t.seqRun = s.seqRun ∧ t.seqIdx = s.seqIdx ∧ t.seqMask = s.seqMask ∧ t.seqEnd = s.seqEnd
      ∧ t.seqNext = s.seqNext ∧ SameAxes s t ∧ SameMemory s t ∧ SameWorld s t ∧ Silent s t

/-- `SEQ_START` completes exactly as its checks allow: the sequence ends at the shortest participating length `len`,
its index is 0, and its first tick comes one period later; no pin is written (44_sequencer R216, R217). -/
def Obligations.SeqStartBegins : Prop :=
  ∀ (s : State) (mask : Word) (len : Nat),
    (∀ a, s.inst.nAxes ≤ a → mask.getLsbD a = false) →
    s.seqRun = false →
    (∀ a, mask.getLsbD a = true → s.contBusy a = false) →
    s.seqPeriod ≠ 0 → 0 < len → len < 65536 →
    (∃ a, mask.getLsbD a = true ∧ (s.ax a).seqLen = len) →
    (∀ a, mask.getLsbD a = true → len ≤ (s.ax a).seqLen) →
    (s.inst.checkEqualLength = true → ∀ a, mask.getLsbD a = true → (s.ax a).seqLen = len) →
    (∀ a, mask.getLsbD a = true → ∀ i, i < len → (s.seqRead a i).isSome = true) →
    ∃ t, exec (.seqStart 0 mask) s = .next t ∧ Answers t 0 0
      ∧ t.seqMask = mask ∧ t.seqEnd.toNat = len ∧ t.seqIdx = 0 ∧ t.seqRun = true
      ∧ t.seqNext = some (s.now + (s.seqPeriod.toNat : Rat)) ∧ t.seqPeriod = s.seqPeriod
      ∧ SameAxes s t ∧ SameMemory s t ∧ SameWorld s t ∧ Silent s t

/-- The faults of `SEQ_START` after its axis check, each reported when the checks before it pass
(44_sequencer R216, 60_exceptions R263). -/
def Obligations.SeqStartFaultsInOrder : Prop :=
  ∀ (s : State) (mask : Word),
    let faults (c : Cause) : Prop := ∃ t, exec (.seqStart 0 mask) s = .next t ∧ Faulted s t c
    let fits := ∀ a, s.inst.nAxes ≤ a → mask.getLsbD a = false
    let free := ∀ a, mask.getLsbD a = true → s.contBusy a = false
    let shortest (len : Nat) := (∃ a, mask.getLsbD a = true ∧ (s.ax a).seqLen = len)
      ∧ ∀ a, mask.getLsbD a = true → len ≤ (s.ax a).seqLen
    (¬ fits → faults .badOperand)
    ∧ (fits → s.seqRun = true → faults .busySequencer)
    ∧ (fits → s.seqRun = false → ¬ free → faults .busyContinuous)
    ∧ (fits → s.seqRun = false → free → s.seqPeriod = 0 → faults .zeroPeriod)
    ∧ (fits → s.seqRun = false → free → s.seqPeriod ≠ 0 → (mask = 0 ∨ shortest 0) → faults .seqEmpty)
    ∧ (∀ len, 0 < len → fits → s.seqRun = false → free → s.seqPeriod ≠ 0 → shortest len →
        s.inst.checkEqualLength = true → (∃ a, mask.getLsbD a = true ∧ (s.ax a).seqLen ≠ len) →
        faults .seqLengthMismatch)
    ∧ (∀ len, 0 < len → fits → s.seqRun = false → free → s.seqPeriod ≠ 0 → shortest len →
        (s.inst.checkEqualLength = true → ∀ a, mask.getLsbD a = true → (s.ax a).seqLen = len) →
        (∃ a i, mask.getLsbD a = true ∧ i < len ∧ s.seqRead a i = none) → faults .seqUnwritten)

/-- Each of the four entry kinds completes on its lane: it drives the step output, while no generator drives it, and
the direction output, and nothing else; in particular neither `AX_DIR` nor `AX_REF` (44_sequencer R219 to R222,
R224, 10_state R46). The model's are the field that names the lane (log entry 22) and that a write a generator keeps
from the step output is no event (log entry 18). -/
def Obligations.EntriesDriveTheirPins : Prop :=
  ∀ s : State, s.Shaped → s.lane < s.inst.nAxes →
    let a := s.lane
    let drives (i : Instr) (pulse level : Bool) : Prop :=
      ∃ t, exec i s = .next t
        ∧ ((s.ax a).cont = false →
          OnlyAxis s t a { s.ax a with stepPin := pulse, dirPin := level }
          ∧ t.trace = s.trace ++ [⟨s.now, .step a, pulse⟩, ⟨s.now, .dir a, level⟩])
        ∧ ((s.ax a).cont = true →
          OnlyAxis s t a { s.ax a with dirPin := level }
          ∧ t.trace = s.trace ++ [⟨s.now, .dir a, level⟩])
        ∧ SameSequencer s t ∧ SameMemory s t ∧ SameWorld s t ∧ t.cmdState = s.cmdState
        ∧ t.rspStatus = s.rspStatus ∧ t.rspData = s.rspData ∧ t.rspValid = s.rspValid
        ∧ t.draws = s.draws ∧ t.faultSticky = s.faultSticky
    drives .stepLoFwd false s.inst.dirLevelFwd ∧ drives .stepHiFwd true s.inst.dirLevelFwd
    ∧ drives .stepLoRev false (!s.inst.dirLevelFwd) ∧ drives .stepHiRev true (!s.inst.dirLevelFwd)

/-- A tick plays the entry at `SEQ_IDX` on every participating axis, in lockstep and in one step, then advances the
index; it ends the schedule when the index reaches `SEQ_END` and schedules the next tick otherwise. Its pin
events are the two of every lane, in an order left open, and it writes nothing else
(44_sequencer R218, R223 to R226). -/
def Obligations.TickPlaysOneEntryPerLane : Prop :=
  ∀ (s : State) (time : Time) (e : Nat → Entry), s.Shaped → s.seqIdx.toNat < s.inst.seqDepth →
    s.seqNext = some time →
    (∀ a ∈ s.lanes, s.seqRead a s.seqIdx.toNat = some (e a) ∧ (s.ax a).cont = false) →
    let level (a : Nat) : Bool :=
      if (e a).edir = .fwd then s.inst.dirLevelFwd else !s.inst.dirLevelFwd
    ∃ t, perform .seq s = .next t
      ∧ (∀ a ∈ s.lanes, t.ax a = { s.ax a with stepPin := (e a).pulse, dirPin := level a })
      ∧ (∀ a, a ∉ s.lanes → t.ax a = s.ax a)
      ∧ (∃ events, t.trace = s.trace ++ events ∧ events.Perm (s.lanes.flatMap fun a =>
          [⟨s.now, .step a, (e a).pulse⟩, ⟨s.now, .dir a, level a⟩]))
      ∧ t.seqIdx = s.seqIdx + 1
      ∧ (s.seqIdx + 1 = s.seqEnd → t.seqRun = false ∧ t.seqNext = s.seqNext)
      ∧ (s.seqIdx + 1 ≠ s.seqEnd →
          t.seqRun = s.seqRun ∧ t.seqNext = some (time + (s.seqPeriod.toNat : Rat)))
      ∧ t.seqMask = s.seqMask ∧ t.seqEnd = s.seqEnd ∧ t.seqPeriod = s.seqPeriod
      ∧ SameMemory s t ∧ SameWorld s t ∧ t.cmdState = s.cmdState ∧ t.rspStatus = s.rspStatus
      ∧ t.rspData = s.rspData ∧ t.rspValid = s.rspValid ∧ t.faultSticky = s.faultSticky
      ∧ t.axes.length = s.axes.length

/-- A running sequence, alone, plays to its end in two steps of the machine per entry (a passage of time and a tick):
the `j`-th of the ticks left at `t1 = SEQ_NEXT` comes at `t1 + j * SEQ_PERIOD` and makes at that time the two pin events
of the entry `SEQ_IDX + j` of every participating axis, in an order left open; then `SEQ_IDX = SEQ_END` and every
participating axis holds the levels of its last entry (44_sequencer R217, R223, R225 to R227, 70_reset_and_hazards R317).
That a step is either an agent's or a passage of time is the model's choice (log entry 10). -/
def Obligations.SequencePlaysToItsEnd : Prop :=
  ∀ (s : State) (t1 : Time), s.Inv → s.Quiet → s.cmdState = .idle → s.seqRun = true →
    s.seqNext = some t1 → s.now < t1 →
    let left := s.seqEnd.toNat - s.seqIdx.toNat
    ∃ t, Sys2Proof.core.run (2 * left) s = .next t
      ∧ t.seqRun = false ∧ t.seqIdx = s.seqEnd ∧ t.seqMask = s.seqMask ∧ t.seqEnd = s.seqEnd
      ∧ t.now = t1 + ((left : Rat) - 1) * (s.seqPeriod.toNat : Rat)
      ∧ (∀ a ∈ s.lanes, ∀ e, s.seqRead a (s.seqEnd.toNat - 1) = some e →
          t.ax a = { s.ax a with stepPin := e.pulse, dirPin := lvlDir s.inst e.edir })
      ∧ (∀ a, a ∉ s.lanes → t.ax a = s.ax a)
      ∧ (∃ ticks : List (List PinEvent), t.trace = s.trace ++ ticks.flatten ∧ ticks.length = left
        ∧ ∀ j events, ticks[j]? = some events → ∀ e : Nat → Entry,
          (∀ a ∈ s.lanes, s.seqRead a (s.seqIdx.toNat + j) = some (e a)) →
          let time : Time := t1 + (j : Rat) * (s.seqPeriod.toNat : Rat)
          events.Perm (s.lanes.flatMap fun a =>
            [⟨time, .step a, (e a).pulse⟩, ⟨time, .dir a, lvlDir s.inst (e a).edir⟩]))
      ∧ SameMemory s t ∧ t.faultSticky = s.faultSticky

/-! ### Readback (45_readback) -/

/-- `READ_REG` completes on every register, whatever runs, and has no side effect but its answer: nothing but the
response changes (45_readback R240, 20_memory R78). -/
def Obligations.ReadRegHasNoSideEffect : Prop :=
  ∀ (s : State) (axis : Byte) (r : BitVec 16),
    ((r.toNat ≤ 0x06 ∧ axis.toNat < s.inst.nAxes)
      ∨ (0x10 ≤ r.toNat ∧ r.toNat ≤ 0x16 ∧ axis = 0)) →
    ∃ t, exec (.readReg axis r 0) s = .next t ∧ Answers t 0 (s.regValue axis.toNat r)
      ∧ SameAxes s t ∧ SameSequencer s t ∧ SameMemory s t ∧ SameWorld s t ∧ Silent s t

/-- The values of the per-axis registers (45_readback R241 to R247). -/
def Obligations.AxisRegistersReadTheirFields : Prop :=
  ∀ (s : State) (a : Nat), (s.ax a).Good s.inst → s.inst.seqDepth ≤ 65535 → 0 < s.ratio a →
    let x := s.ax a
    let v (r : BitVec 16) : Nat := (s.regValue a r).toNat
    ((s.regValue a 0x00).getLsbD 0 = x.en ∧ (s.regValue a 0x00).getLsbD 1 = decide (x.dir = .rev)
      ∧ (s.regValue a 0x00).getLsbD 2 = x.cont ∧ (s.regValue a 0x00).getLsbD 3 = x.swing
      ∧ (s.regValue a 0x00).getLsbD 4 = x.stepPin ∧ (s.regValue a 0x00).getLsbD 5 = x.dirPin
      ∧ (s.regValue a 0x00).getLsbD 6 = x.enPin ∧ (s.regValue a 0x00).getLsbD 7 = s.seqOwns a
      ∧ v 0x00 < 256)
    ∧ ((v 0x01 : Int) = ⌊x.ref * 1000⌋ ∧ v 0x01 ≤ 359999)
    ∧ v 0x02 = x.pw
    ∧ (v 0x03 : Int) = min (2 ^ 32 - 1) ⌊s.ratio a * 1000⌋
    ∧ (x.cont = true → (v 0x04 : Int) = ⌊(500000000 : Rat) / (x.contPw : Rat)⌋) ∧ (x.cont = false → v 0x04 = 0)
    ∧ (x.swing = true → v 0x05 = x.swingMs) ∧ (x.swing = false → v 0x05 = 0)
    ∧ v 0x06 = x.seqLen

/-- The values of the global registers (45_readback R248 to R254). -/
def Obligations.GlobalRegistersReadTheirFields : Prop :=
  ∀ s : State, s.inst.wf = true →
    let v (r : BitVec 16) : Nat := (s.regValue 0 r).toNat
    v 0x10 = (if s.seqRun = true then 1 else 0)
    ∧ v 0x11 = s.seqIdx.toNat
    ∧ v 0x12 = s.seqPeriod.toNat
    ∧ v 0x13 = s.seqMask.toNat
    ∧ v 0x14 = s.seqEnd.toNat
    ∧ v 0x15 = s.faultSticky.toNat
    ∧ v 0x16 = s.inst.seqDepth + 2 ^ 16 * (s.inst.nAxes - 1)
      + (if s.inst.checkEqualLength = true then 2 ^ 24 else 0)
      + (if s.inst.stopContCancelsSwing = true then 2 ^ 25 else 0)
      + (if s.inst.livePwmUpdate = true then 2 ^ 26 else 0)
      + (if s.inst.dirLevelFwd = true then 2 ^ 27 else 0)
      + (if s.inst.enLevelOn = true then 2 ^ 28 else 0)

/-- The faults of `READ_REG`: a reserved operand bit or a number that is no register first, then the axis
(45_readback R240, R256). -/
def Obligations.ReadRegFaults : Prop :=
  ∀ (s : State) (axis : Byte) (r rsv : BitVec 16),
    let register := r.toNat ≤ 0x06 ∨ (0x10 ≤ r.toNat ∧ r.toNat ≤ 0x16)
    let faults (c : Cause) : Prop := ∃ t, exec (.readReg axis r rsv) s = .next t ∧ Faulted s t c
    (rsv ≠ 0 → faults .badOperand)
    ∧ (rsv = 0 → ¬ register → faults .badOperand)
    ∧ (rsv = 0 → register → r.toNat < 0x10 → s.inst.nAxes ≤ axis.toNat → faults .badAxis)
    ∧ (rsv = 0 → register → 0x10 ≤ r.toNat → axis ≠ 0 → faults .badAxis)

/-! ### Faults (60_exceptions) -/

/-- A fault is precise: every command answers, and either it completes without a fault recorded (with its response,
or with a move under way), or it faults with one cause and has no effect but its response and the sticky
register, which keeps the first cause; so does a command the decoder refuses (60_exceptions R261, R264, R265). -/
def Obligations.FaultsHaveNoEffect : Prop :=
  (∀ (i : Instr) (s : State), i.isEntry = false →
    ∃ t, exec i s = .next t ∧
      ((∃ c, Faulted s t c)
        ∨ (t.faultSticky = s.faultSticky ∧ ((∃ d, Answers t 0 d) ∨ ∃ m, t.cmdState = .moving m))))
  ∧ ∀ (s : State) (e : DecodeError), decodeCommand s.cmdWord s.cmdArg = .error e →
    ∃ t, perform .cmd s = .next t ∧ Faulted (acceptCommand s) t .illegalCommand

/-- An axis field that names no axis faults every per-axis command, before its operand is looked at, and an axis
field other than 0 faults the global ones (30_encoding R94). -/
def Obligations.BadAxisFaults : Prop :=
  (∀ (s : State) (axis : Byte) (i : Instr), s.inst.nAxes ≤ axis.toNat →
    ((∃ d r, i = .setDirection axis d r) ∨ (∃ x e r, i = .seqWrite axis x e r)
      ∨ (∃ n, i = .seqSetLen axis n)
      ∨ (∃ m, i ∈ [Instr.setReference axis m, .goAbs axis m, .goRel axis m, .setSpeedPw axis m,
          .setSpeedRps axis m, .setSpeedSps axis m, .setSpeedRpm axis m, .swingStart axis m])
      ∨ i ∈ [Instr.enable axis, .disable axis, .contStart axis, .contStop axis, .swingStop axis]) →
    ∃ t, exec i s = .next t ∧ Faulted s t .badAxis)
  ∧ ∀ (s : State) (axis : Byte), axis ≠ 0 →
    (∀ p, ∃ t, exec (.seqSetPeriod axis p) s = .next t ∧ Faulted s t .badAxis)
    ∧ ∀ m, ∃ t, exec (.seqStart axis m) s = .next t ∧ Faulted s t .badAxis

/-- The operand faults of the per-axis commands and of `SEQ_SET_PERIOD`, when the axis is right: a set must-be-0 bit,
a zero rate, a period that is not positive, an index or a length outside the memory (30_encoding R99,
40_axis_config R126 to R128, 42_continuous_swing R172, 44_sequencer R210, R212, R214). -/
def Obligations.OperandFaults : Prop :=
  ∀ (s : State) (axis : Byte), axis.toNat < s.inst.nAxes →
    let faults (i : Instr) (c : Cause) : Prop := ∃ t, exec i s = .next t ∧ Faulted s t c
    (∀ d r, r ≠ 0 → faults (.setDirection axis d r) .badOperand)
    ∧ (∀ x e r, r ≠ 0 → faults (.seqWrite axis x e r) .badOperand)
    ∧ faults (.setSpeedSps axis 0) .zeroRate ∧ faults (.setSpeedRps axis 0) .zeroRate
    ∧ faults (.setSpeedRpm axis 0) .zeroRate
    ∧ (∀ p, p ≤ 0 → faults (.swingStart axis p) .zeroPeriod ∧ faults (.seqSetPeriod 0 p) .zeroPeriod)
    ∧ (∀ x e, s.inst.seqDepth ≤ x.toNat → faults (.seqWrite axis x e 0) .seqRange)
    ∧ ∀ n, s.inst.seqDepth < n → faults (.seqSetLen axis n) .seqRange

/-- The busy faults, when the checks before them pass: the sequencer owns the axis, a sequence runs, or the axis's
generator or swing timer runs (60_exceptions R262). -/
def Obligations.BusyFaults : Prop :=
  ∀ (s : State) (axis : Byte), axis.toNat < s.inst.nAxes →
    let faults (i : Instr) (c : Cause) : Prop := ∃ t, exec i s = .next t ∧ Faulted s t c
    (s.seqRun = true → s.seqMask.getLsbD axis.toNat = true →
      (∀ d, faults (.setDirection axis d 0) .busySequencer)
      ∧ (∀ m, faults (.goRel axis m) .busySequencer ∧ faults (.goAbs axis m) .busySequencer)
      ∧ faults (.contStart axis) .busySequencer ∧ faults (.contStop axis) .busySequencer
      ∧ (∀ p, 0 < p → faults (.swingStart axis p) .busySequencer)
      ∧ faults (.swingStop axis) .busySequencer)
    ∧ (s.seqRun = true →
      (∀ x e, x.toNat < s.inst.seqDepth → faults (.seqWrite axis x e 0) .busySequencer)
      ∧ (∀ n, n ≤ s.inst.seqDepth → faults (.seqSetLen axis n) .busySequencer)
      ∧ ∀ p, 0 < p → faults (.seqSetPeriod 0 p) .busySequencer)
    ∧ (((s.ax axis.toNat).cont = true ∨ (s.ax axis.toNat).swing = true) →
      s.seqOwns axis.toNat = false →
      ∀ m, faults (.goRel axis m) .busyContinuous ∧ faults (.goAbs axis m) .busyContinuous)

/-! ### The step -/

/-- A step runs the decoded command: when the command executor alone is due and the words on the port decode to an
instruction, the step is the instruction's meaning on the state in which the command has been accepted: busy, its
`CMD_VALID` gone, no response valid. How the host presents commands is the model's choice (log entries 2 and 12). -/
def Obligations.StepRunsTheCommand : Prop :=
  ∀ (s : State) (i : Instr), s.resetIn = false → s.due = [.cmd] →
    decodeCommand s.cmdWord s.cmdArg = .ok i →
    i.wf = true ∧ step s = exec i
      { s with cmdState := .busy, cmdValid := false, rspValid := false }

/-- A step runs the decoded entry: when the sequencer alone is due and one axis takes part, the step is the meaning of
the entry stored at `(a, SEQ_IDX)`, on lane `a`, and then the index advances; the pin events it recorded are put
in a free order (44_sequencer R223, R226). The lane as a field of the state is the model's (log entry 22), and so
is where an entry is stored (log entry 14). -/
def Obligations.StepRunsTheEntry : Prop :=
  ∀ (s t : State) (a : Nat) (time : Time) (b : Byte) (i : Instr), s.resetIn = false → s.due = [.seq] →
    s.seqNext = some time → s.lanes = [a] → s.seqIdx.toNat < s.inst.seqDepth →
    memRead s.mem (a * 65536 + s.seqIdx.toNat) = some b → decodeEntry b = .ok i →
    exec i { s with lane := a } = .next t →
    step s = .next (advanceIndex time (reorderTick s t))

/-- One agent that is due takes the step, which one is left open, and no other does; with none due, only time passes,
if at all (20_memory R80, 60_exceptions R271). The passage of time as a step of its own is the model's choice
(log entry 10), as is the counter of draws (log entry 5). -/
def Obligations.OneDueAgentSteps : Prop :=
  ∀ s : State, s.resetIn = false →
    (s.due ≠ [] → ∃ g ∈ s.due, ∃ k, step s = perform g { s with draws := k })
    ∧ (s.due = [] → ∃ now, s.now ≤ now ∧ step s = .next { s with now := now })

/-! ### The whole machine -/

/-- No step changes a parameter of the instance (00_scope R8). -/
def Obligations.ParametersNeverChange : Prop :=
  ∀ s t : State, step s = .next t → t.inst = s.inst

/-- The clock only advances (10_state R57), through a reset too, which is the model's choice (log entry 9). -/
def Obligations.ClockOnlyAdvances : Prop :=
  ∀ s t : State, step s = .next t → s.now ≤ t.now

/-- The reset state of every instance within the parameters' ranges satisfies the invariant, and nothing is scheduled
in the past (10_state R60, R61). The invariant is the one of `StepKeepsTheInvariant`; it bounds `RSP_STATUS` only
while a response is valid, so the values the model gives the response lines at reset (log entry 3) play no part. -/
def Obligations.ResetSatisfiesTheInvariant : Prop :=
  ∀ p : Config.Params, p.wf = true → (State.resetOf p).Inv ∧ (State.resetOf p).OnTime

/-- Every step keeps the invariant: the reference stays in `[0, 360)`, the width at or above 25, a running sequence
keeps what `SEQ_START` checked, a moving axis stays free of other drivers (10_state R60), and the fields stay in the
ranges of their rules (10_state R34, R35, R37 to R41, R45, R48, R50, R55; the causes of 60_exceptions R260 in a valid
response and in `FAULT_STICKY`). The invariant also says of the model's own representation that it stays in form:
the memory (log entries 14 and 24), the mask and the ranges held as naturals (log entry 23), the generator's next
edge (log entries 4 and 8), and that no step ends busy (log entry 12). -/
def Obligations.StepKeepsTheInvariant : Prop :=
  ∀ s t : State, s.Inv → step s = .next t → t.Inv

/-- From a state that satisfies the invariant every step answers: the machine never stops (60_exceptions R266). The
fault it excludes, a tick outside the memory, is the model's own (log entry 15). -/
def Obligations.MachineNeverStops : Prop :=
  ∀ s : State, s.Inv → ∃ t, step s = .next t

/-- No nominal event is overtaken: every step keeps the scheduled times at or after the clock (20_memory R80). Real
times are the nominal ones of the rules (log entry 10). -/
def Obligations.NoEventIsOvertaken : Prop :=
  ∀ s t : State, s.Inv → s.OnTime → step s = .next t → t.OnTime

/-- In every state reachable from reset, whatever commands and `RESET` edges the host sends, the invariants of the
spec hold (10_state R60). That the inputs to come are two lists is the model's choice (log entry 2). -/
def Obligations.ReachableStatesSatisfyR60 : Prop :=
  ∀ (p : Config.Params) (commands : List HostCommand) (resets : List ResetEdge) (s : State), p.wf = true →
    Reaches { State.resetOf p with cmdStream := commands, resetStream := resets } s →
    (∀ a, a < s.inst.nAxes → 0 ≤ (s.ax a).ref ∧ (s.ax a).ref < 360
      ∧ 25 ≤ (s.ax a).pw ∧ (s.ax a).pw ≤ 2 ^ 32 - 1
      ∧ ((s.ax a).swing = true → 1 ≤ (s.ax a).swingMs))
    ∧ (s.seqRun = true → 1 ≤ s.seqPeriod.toNat ∧ s.seqMask ≠ 0 ∧ s.seqIdx.toNat < s.seqEnd.toNat
      ∧ ∀ a, s.seqMask.getLsbD a = true → (s.ax a).cont = false ∧ (s.ax a).swing = false)
    ∧ ∀ m, s.cmdState = .moving m → (s.ax m.axis).cont = false ∧ (s.ax m.axis).swing = false

/-- Reset is the only event that clears the sticky fault register, stops a sequence early, cancels a discrete move or
returns the sequence memory to unwritten (70_reset_and_hazards R292). -/
def Obligations.OnlyResetUndoes : Prop :=
  ∀ s t : State, step s = .next t → s.resetIn = false → t.resetIn = false →
    (s.faultSticky ≠ 0 → t.faultSticky = s.faultSticky)
    ∧ (s.seqRun = true → t.seqRun = false → s.seqIdx + 1 = s.seqEnd ∧ t.seqIdx = s.seqEnd)
    ∧ (∀ m, s.cmdState = .moving m →
        (∃ m', t.cmdState = .moving m' ∧ m'.axis = m.axis ∧ m'.width = m.width
          ∧ m.remaining ≤ m'.remaining + 1)
        ∨ (m.phase = .low ∧ m.remaining ≤ 1 ∧ Answers t 0 0))
    ∧ ∀ a i, (s.seqRead a i).isSome = true → (t.seqRead a i).isSome = true

/-- While a sequence runs, no step but a reset changes the sequence memory, a length or the period: a sequence cannot
modify itself or be modified while it plays (20_memory R84). -/
def Obligations.PlayingSequenceIsNotModified : Prop :=
  ∀ s t : State, step s = .next t → s.resetIn = false → t.resetIn = false → s.seqRun = true →
    SameMemory s t ∧ t.seqPeriod = s.seqPeriod ∧ t.seqMask = s.seqMask ∧ t.seqEnd = s.seqEnd
      ∧ ∀ a, (t.ax a).seqLen = (s.ax a).seqLen

/-- A written entry keeps its value until it is rewritten or the block is reset: a step without a reset leaves it, or
is the step of a `SEQ_WRITE` of that very entry, and no other (44_sequencer R211). -/
def Obligations.EntriesKeepTheirValue : Prop :=
  ∀ (s t : State) (a i : Nat) (e : Entry), step s = .next t → s.resetIn = false → t.resetIn = false →
    i < 65536 → s.seqRead a i = some e →
    t.seqRead a i = some e
    ∨ ∃ (axis : Byte) (x : BitVec 16) (e' : Entry),
        decodeCommand s.cmdWord s.cmdArg = .ok (.seqWrite axis x e' 0)
        ∧ s.cmdValid = true ∧ t.cmdValid = false ∧ s.seqRun = false
        ∧ axis.toNat = a ∧ x.toNat = i ∧ t.seqRead a i = some e'

/-- While a move runs, no step but a reset changes any field or pin of the moving axis except `STEP` and `AX_REF`, and
these only in a step of the move engine, the one that changes the move record; and no command is accepted
(41_discrete_motion R156). -/
def Obligations.MovingAxisIsLeftAlone : Prop :=
  ∀ (s t : State) (m : Move), s.Inv → step s = .next t → s.resetIn = false → t.resetIn = false →
    s.cmdState = .moving m →
    let x := s.ax m.axis
    let y := t.ax m.axis
    y = { x with stepPin := y.stepPin, ref := y.ref }
      ∧ (t.cmdState = s.cmdState → y = x)
      ∧ (t.cmdState ≠ s.cmdState → perform .move s = .next { t with draws := s.draws })
      ∧ (s.cmdValid = true → t.cmdValid = true)

/-- The tracked state is written by its writers alone: without a reset, a step in which neither the command executor
nor the move engine acts leaves every reference, width, enable and length as it was, and no step of the
sequencer or of a generator changes a direction field (10_state R32 to R35, 42_continuous_swing R177,
44_sequencer R224). -/
def Obligations.OnlyCommandsAndMovesTrack : Prop :=
  ∀ (s t : State) (g : Agent), perform g s = .next t → g ≠ .cmd → g ≠ .move → g ≠ .rst →
    (∀ a, (t.ax a).ref = (s.ax a).ref ∧ (t.ax a).pw = (s.ax a).pw ∧ (t.ax a).en = (s.ax a).en
      ∧ (t.ax a).enPin = (s.ax a).enPin ∧ (t.ax a).seqLen = (s.ax a).seqLen
      ∧ (t.ax a).cont = (s.ax a).cont ∧ (t.ax a).swing = (s.ax a).swing
      ∧ ((∀ b, g ≠ .swg b) → (t.ax a).dir = (s.ax a).dir))
    ∧ t.faultSticky = s.faultSticky ∧ SameMemory s t

/-! ### Reset (70_reset_and_hazards, 10_state R61) -/

/-- The reset state, field by field (10_state R61). -/
def Obligations.ResetStateIsTheTable : Prop :=
  ∀ p : Config.Params,
    let s := State.resetOf p
    s.inst = p ∧ s.axes.length = p.nAxes
    ∧ (∀ a, a < p.nAxes →
      (s.ax a).en = false ∧ (s.ax a).dir = .fwd ∧ (s.ax a).ref = 0 ∧ (s.ax a).pw = p.pwReset
      ∧ (s.ax a).cont = false ∧ (s.ax a).contPw = 0 ∧ (s.ax a).swing = false
      ∧ (s.ax a).swingMs = 0 ∧ (s.ax a).swingNext = none ∧ (s.ax a).seqLen = 0
      ∧ (s.ax a).stepPin = false ∧ (s.ax a).pwm = none
      ∧ (s.ax a).dirPin = p.dirLevelFwd ∧ (s.ax a).enPin = !p.enLevelOn
      ∧ ∀ i, s.seqRead a i = none)
    ∧ s.seqRun = false ∧ s.seqIdx = 0 ∧ s.seqPeriod = 0 ∧ s.seqMask = 0 ∧ s.seqEnd = 0
    ∧ s.seqNext = none ∧ s.faultSticky = 0 ∧ s.cmdState = .idle ∧ s.rspValid = false

/-- While `RESET` is asserted, and by the very step that asserts it, whatever ran, the block is in its reset state and
no command is accepted (70_reset_and_hazards R290, R291). That a command presented meanwhile waits is the model's
choice (log entry 9). -/
def Obligations.ResetAbandonsEverything : Prop :=
  ∀ s t : State, step s = .next t → (s.resetIn = true ∨ t.resetIn = true) →
    let r := State.resetOf s.inst
    t.axes = r.axes ∧ t.mem = r.mem ∧ t.seqRun = r.seqRun ∧ t.seqIdx = r.seqIdx
    ∧ t.seqPeriod = r.seqPeriod ∧ t.seqMask = r.seqMask ∧ t.seqEnd = r.seqEnd
    ∧ t.seqNext = r.seqNext ∧ t.faultSticky = r.faultSticky ∧ t.cmdState = r.cmdState
    ∧ t.rspValid = false ∧ (s.cmdValid = true → t.cmdValid = true)

/-! ### The planner and the wire binding (43_planner, 30_encoding) -/

/-- The planner's output has two entries per sample, `2 * K` in all, it fits `SEQ_LOAD` exactly when
`2 * K <= SEQ_DEPTH`, and the planner refuses exactly the steps that are not positive (43_planner R191, R198). -/
def Obligations.PlanHasTwoEntriesPerSample : Prop :=
  ∀ (inst : Config.Params) (f : Rat → Rat) (start stop xDev yDev : Rat),
    (∀ p, funcToPulse inst f start stop xDev yDev = some p →
      (p.entries.length : Int) = 2 * max 0 ⌊(stop - start) / xDev⌋
      ∧ (seqLoadFits inst p.entries = true ↔
          2 * max 0 ⌊(stop - start) / xDev⌋ ≤ (inst.seqDepth : Int)))
    ∧ (funcToPulse inst f start stop xDev yDev = none ↔ (xDev ≤ 0 ∨ yDev ≤ 0))

/-- If the function changes by at most `yDev` from each sample to the next, then after every sample the planner is
within one quantum of it (43_planner R199): after the last of any number `n` of samples. -/
def Obligations.PlannerTracksWithinAQuantum : Prop :=
  ∀ (d : Dir) (f : Rat → Rat) (start xDev yDev : Rat) (n : Nat), 0 < yDev →
    (∀ k, 1 ≤ k → k ≤ n →
      |f (start + (k : Rat) * xDev) - f (start + ((k : Rat) - 1) * xDev)| ≤ yDev) →
    |f (start + (n : Rat) * xDev) - (planSamples f start xDev yDev n 1 (f start) d).y| < yDev

/-- On a constant function the planner emits only no-change pairs, in the instance's `PLANNER_INITIAL_DIR` since no
step pair comes before them, and on a ramp of slope `yDev / xDev` only forward step pairs, one for each sample
(43_planner R192, R194, R195, 00_scope R20; the document's testable properties W3, W4). -/
def Obligations.PlannerOnConstantsAndRamps : Prop :=
  ∀ (inst : Config.Params) (c start stop xDev yDev : Rat), 0 < xDev → 0 < yDev →
    (∃ p, funcToPulse inst (fun _ => c) start stop xDev yDev = some p ∧ p.warnings = []
      ∧ p.entries =
          (List.replicate (sampleCount start stop xDev) (holdPair inst.plannerInitialDir)).flatten)
    ∧ ∃ p, funcToPulse inst (fun x => c + x * (yDev / xDev)) start stop xDev yDev = some p
      ∧ p.warnings = []
      ∧ p.entries = (List.replicate (sampleCount start stop xDev) pairFwd).flatten

/-- Loading a planned sequence: after `SEQ_LOAD` of `n` entries with no sequence running, the length register holds
`n`, every entry reads back, the memory elsewhere is as before, and nothing else changes but the response
(30_encoding R105, 44_sequencer R210, R212). That entry `(a, i)` stands at place `65536 * a + i` is the model's choice
(log entry 14). -/
def Obligations.SeqLoadLoadsTheSequence : Prop :=
  ∀ (s : State) (axis : Byte) (entries : List Entry), s.Shaped → axis.toNat < s.inst.nAxes →
    entries.length ≤ s.inst.seqDepth → s.inst.seqDepth ≤ 65535 → s.seqRun = false →
    ∃ t, (seqLoad axis entries).foldlM (fun u i =>
        match exec i u with
        | .next v => some v
        | .fault _ => none
        | .refused _ => none) s = some t
      ∧ OnlyAxis s t axis.toNat { s.ax axis.toNat with seqLen := entries.length }
      ∧ (∀ i e, entries[i]? = some e → t.seqRead axis.toNat i = some e)
      ∧ (∀ k, (k < axis.toNat * 65536 ∨ axis.toNat * 65536 + entries.length ≤ k) →
          memRead t.mem k = memRead s.mem k)
      ∧ Answers t 0 0 ∧ SameSequencer s t ∧ SameWorld s t ∧ Silent s t

/-- The wire table, method by method: the five methods without an argument bind to their command; each of the eight
others binds a value to its command with the scaled value as operand exactly when that is a 32-bit integer, and
refuses every other value; the document's own example is `SET_REFERENCE 0, 42000` (30_encoding R106 to R108). Wire values
are rationals, which is the model's choice (log entry 21). -/
def Obligations.WireBindingIsExact : Prop :=
  (∀ m axis v i, wireCommand m axis v = some i → i.wf = true ∧ i.isEntry = false)
  ∧ (∀ (axis : Byte) (v : Rat),
      wireCommand .enable axis v = some (.enable axis)
      ∧ wireCommand .disable axis v = some (.disable axis)
      ∧ wireCommand .continuousMoving axis v = some (.contStart axis)
      ∧ wireCommand .stopContinuousMoving axis v = some (.contStop axis)
      ∧ wireCommand .stopSwing axis v = some (.swingStop axis))
  ∧ (∀ (axis : Byte) (v : Rat),
      let binds (m : WireMethod) (scale : Rat) (make : Int → Instr) : Prop :=
        (∀ k : Int, v * scale = (k : Rat) → -2 ^ 31 ≤ k → k ≤ 2 ^ 31 - 1 →
          wireCommand m axis v = some (make k))
        ∧ ((¬ ∃ k : Int, v * scale = (k : Rat) ∧ -2 ^ 31 ≤ k ∧ k ≤ 2 ^ 31 - 1) →
          wireCommand m axis v = none)
      binds .setReference 1000 (.setReference axis)
      ∧ binds .goToAngleAbsolute 1000 (.goAbs axis)
      ∧ binds .goToAngleRelative 1000 (.goRel axis)
      ∧ binds .setSpeedPulseWidth 1 (.setSpeedPw axis)
      ∧ binds .setSpeedRevPerSecond 1000 (.setSpeedRps axis)
      ∧ binds .setSpeedStepsPerSecond 1000 (.setSpeedSps axis)
      ∧ binds .setSpeedRevPerMinute 1000 (.setSpeedRpm axis)
      ∧ binds .swing 1 (.swingStart axis))
  ∧ (wireCommand .setReference 0 42).map encode = some (.command 0x00000004#32 0x0000A410#32)
end

