-- ==== Sys2Proof/Laws/State.lean ====
section
/-! SUPPORT. One lemma per field of State for each update, true by rfl, so that no proof unfolds a record update; and what each update makes of an axis. -/

namespace Sys2Proof.Machine

/-! ### `modAx` -/

@[simp] theorem modAx_inst (a : Nat) (f : Axis → Axis) (s : State) : (modAx a f s).inst = s.inst := rfl
@[simp] theorem modAx_axes (a : Nat) (f : Axis → Axis) (s : State) : (modAx a f s).axes = s.axes.modify a f := rfl
@[simp] theorem modAx_mem (a : Nat) (f : Axis → Axis) (s : State) : (modAx a f s).mem = s.mem := rfl
@[simp] theorem modAx_seqRun (a : Nat) (f : Axis → Axis) (s : State) : (modAx a f s).seqRun = s.seqRun := rfl
@[simp] theorem modAx_seqIdx (a : Nat) (f : Axis → Axis) (s : State) : (modAx a f s).seqIdx = s.seqIdx := rfl
@[simp] theorem modAx_seqPeriod (a : Nat) (f : Axis → Axis) (s : State) : (modAx a f s).seqPeriod = s.seqPeriod := rfl
@[simp] theorem modAx_seqMask (a : Nat) (f : Axis → Axis) (s : State) : (modAx a f s).seqMask = s.seqMask := rfl
@[simp] theorem modAx_seqEnd (a : Nat) (f : Axis → Axis) (s : State) : (modAx a f s).seqEnd = s.seqEnd := rfl
@[simp] theorem modAx_seqNext (a : Nat) (f : Axis → Axis) (s : State) : (modAx a f s).seqNext = s.seqNext := rfl
@[simp] theorem modAx_faultSticky (a : Nat) (f : Axis → Axis) (s : State) : (modAx a f s).faultSticky = s.faultSticky := rfl
@[simp] theorem modAx_cmdState (a : Nat) (f : Axis → Axis) (s : State) : (modAx a f s).cmdState = s.cmdState := rfl
@[simp] theorem modAx_rspStatus (a : Nat) (f : Axis → Axis) (s : State) : (modAx a f s).rspStatus = s.rspStatus := rfl
@[simp] theorem modAx_rspData (a : Nat) (f : Axis → Axis) (s : State) : (modAx a f s).rspData = s.rspData := rfl
@[simp] theorem modAx_rspValid (a : Nat) (f : Axis → Axis) (s : State) : (modAx a f s).rspValid = s.rspValid := rfl
@[simp] theorem modAx_cmdWord (a : Nat) (f : Axis → Axis) (s : State) : (modAx a f s).cmdWord = s.cmdWord := rfl
@[simp] theorem modAx_cmdArg (a : Nat) (f : Axis → Axis) (s : State) : (modAx a f s).cmdArg = s.cmdArg := rfl
@[simp] theorem modAx_cmdValid (a : Nat) (f : Axis → Axis) (s : State) : (modAx a f s).cmdValid = s.cmdValid := rfl
@[simp] theorem modAx_resetIn (a : Nat) (f : Axis → Axis) (s : State) : (modAx a f s).resetIn = s.resetIn := rfl
@[simp] theorem modAx_now (a : Nat) (f : Axis → Axis) (s : State) : (modAx a f s).now = s.now := rfl
@[simp] theorem modAx_trace (a : Nat) (f : Axis → Axis) (s : State) : (modAx a f s).trace = s.trace := rfl
@[simp] theorem modAx_draws (a : Nat) (f : Axis → Axis) (s : State) : (modAx a f s).draws = s.draws := rfl
@[simp] theorem modAx_lane (a : Nat) (f : Axis → Axis) (s : State) : (modAx a f s).lane = s.lane := rfl
@[simp] theorem modAx_cmdStream (a : Nat) (f : Axis → Axis) (s : State) : (modAx a f s).cmdStream = s.cmdStream := rfl
@[simp] theorem modAx_resetStream (a : Nat) (f : Axis → Axis) (s : State) : (modAx a f s).resetStream = s.resetStream := rfl

/-! ### `logPin` -/

@[simp] theorem logPin_inst (p : Pin) (l : Bool) (s : State) : (logPin p l s).inst = s.inst := rfl
@[simp] theorem logPin_axes (p : Pin) (l : Bool) (s : State) : (logPin p l s).axes = s.axes := rfl
@[simp] theorem logPin_mem (p : Pin) (l : Bool) (s : State) : (logPin p l s).mem = s.mem := rfl
@[simp] theorem logPin_seqRun (p : Pin) (l : Bool) (s : State) : (logPin p l s).seqRun = s.seqRun := rfl
@[simp] theorem logPin_seqIdx (p : Pin) (l : Bool) (s : State) : (logPin p l s).seqIdx = s.seqIdx := rfl
@[simp] theorem logPin_seqPeriod (p : Pin) (l : Bool) (s : State) : (logPin p l s).seqPeriod = s.seqPeriod := rfl
@[simp] theorem logPin_seqMask (p : Pin) (l : Bool) (s : State) : (logPin p l s).seqMask = s.seqMask := rfl
@[simp] theorem logPin_seqEnd (p : Pin) (l : Bool) (s : State) : (logPin p l s).seqEnd = s.seqEnd := rfl
@[simp] theorem logPin_seqNext (p : Pin) (l : Bool) (s : State) : (logPin p l s).seqNext = s.seqNext := rfl
@[simp] theorem logPin_faultSticky (p : Pin) (l : Bool) (s : State) : (logPin p l s).faultSticky = s.faultSticky := rfl
@[simp] theorem logPin_cmdState (p : Pin) (l : Bool) (s : State) : (logPin p l s).cmdState = s.cmdState := rfl
@[simp] theorem logPin_rspStatus (p : Pin) (l : Bool) (s : State) : (logPin p l s).rspStatus = s.rspStatus := rfl
@[simp] theorem logPin_rspData (p : Pin) (l : Bool) (s : State) : (logPin p l s).rspData = s.rspData := rfl
@[simp] theorem logPin_rspValid (p : Pin) (l : Bool) (s : State) : (logPin p l s).rspValid = s.rspValid := rfl
@[simp] theorem logPin_cmdWord (p : Pin) (l : Bool) (s : State) : (logPin p l s).cmdWord = s.cmdWord := rfl
@[simp] theorem logPin_cmdArg (p : Pin) (l : Bool) (s : State) : (logPin p l s).cmdArg = s.cmdArg := rfl
@[simp] theorem logPin_cmdValid (p : Pin) (l : Bool) (s : State) : (logPin p l s).cmdValid = s.cmdValid := rfl
@[simp] theorem logPin_resetIn (p : Pin) (l : Bool) (s : State) : (logPin p l s).resetIn = s.resetIn := rfl
@[simp] theorem logPin_now (p : Pin) (l : Bool) (s : State) : (logPin p l s).now = s.now := rfl
@[simp] theorem logPin_trace (p : Pin) (l : Bool) (s : State) : (logPin p l s).trace = s.trace ++ [⟨s.now, p, l⟩] := rfl
@[simp] theorem logPin_draws (p : Pin) (l : Bool) (s : State) : (logPin p l s).draws = s.draws := rfl
@[simp] theorem logPin_lane (p : Pin) (l : Bool) (s : State) : (logPin p l s).lane = s.lane := rfl
@[simp] theorem logPin_cmdStream (p : Pin) (l : Bool) (s : State) : (logPin p l s).cmdStream = s.cmdStream := rfl
@[simp] theorem logPin_resetStream (p : Pin) (l : Bool) (s : State) : (logPin p l s).resetStream = s.resetStream := rfl
@[simp] theorem logPin_ax (p : Pin) (l : Bool) (s : State) (b : Nat) : (logPin p l s).ax b = s.ax b := rfl

/-! ### `driveStep` -/

@[simp] theorem driveStep_inst (a : Nat) (l : Bool) (s : State) : (driveStep a l s).inst = s.inst := rfl
@[simp] theorem driveStep_mem (a : Nat) (l : Bool) (s : State) : (driveStep a l s).mem = s.mem := rfl
@[simp] theorem driveStep_seqRun (a : Nat) (l : Bool) (s : State) : (driveStep a l s).seqRun = s.seqRun := rfl
@[simp] theorem driveStep_seqIdx (a : Nat) (l : Bool) (s : State) : (driveStep a l s).seqIdx = s.seqIdx := rfl
@[simp] theorem driveStep_seqPeriod (a : Nat) (l : Bool) (s : State) : (driveStep a l s).seqPeriod = s.seqPeriod := rfl
@[simp] theorem driveStep_seqMask (a : Nat) (l : Bool) (s : State) : (driveStep a l s).seqMask = s.seqMask := rfl
@[simp] theorem driveStep_seqEnd (a : Nat) (l : Bool) (s : State) : (driveStep a l s).seqEnd = s.seqEnd := rfl
@[simp] theorem driveStep_seqNext (a : Nat) (l : Bool) (s : State) : (driveStep a l s).seqNext = s.seqNext := rfl
@[simp] theorem driveStep_faultSticky (a : Nat) (l : Bool) (s : State) : (driveStep a l s).faultSticky = s.faultSticky := rfl
@[simp] theorem driveStep_cmdState (a : Nat) (l : Bool) (s : State) : (driveStep a l s).cmdState = s.cmdState := rfl
@[simp] theorem driveStep_rspStatus (a : Nat) (l : Bool) (s : State) : (driveStep a l s).rspStatus = s.rspStatus := rfl
@[simp] theorem driveStep_rspData (a : Nat) (l : Bool) (s : State) : (driveStep a l s).rspData = s.rspData := rfl
@[simp] theorem driveStep_rspValid (a : Nat) (l : Bool) (s : State) : (driveStep a l s).rspValid = s.rspValid := rfl
@[simp] theorem driveStep_cmdWord (a : Nat) (l : Bool) (s : State) : (driveStep a l s).cmdWord = s.cmdWord := rfl
@[simp] theorem driveStep_cmdArg (a : Nat) (l : Bool) (s : State) : (driveStep a l s).cmdArg = s.cmdArg := rfl
@[simp] theorem driveStep_cmdValid (a : Nat) (l : Bool) (s : State) : (driveStep a l s).cmdValid = s.cmdValid := rfl
@[simp] theorem driveStep_resetIn (a : Nat) (l : Bool) (s : State) : (driveStep a l s).resetIn = s.resetIn := rfl
@[simp] theorem driveStep_now (a : Nat) (l : Bool) (s : State) : (driveStep a l s).now = s.now := rfl
@[simp] theorem driveStep_trace (a : Nat) (l : Bool) (s : State) : (driveStep a l s).trace = s.trace ++ [⟨s.now, .step a, l⟩] := rfl
@[simp] theorem driveStep_draws (a : Nat) (l : Bool) (s : State) : (driveStep a l s).draws = s.draws := rfl
@[simp] theorem driveStep_lane (a : Nat) (l : Bool) (s : State) : (driveStep a l s).lane = s.lane := rfl
@[simp] theorem driveStep_cmdStream (a : Nat) (l : Bool) (s : State) : (driveStep a l s).cmdStream = s.cmdStream := rfl
@[simp] theorem driveStep_resetStream (a : Nat) (l : Bool) (s : State) : (driveStep a l s).resetStream = s.resetStream := rfl

/-! ### `writeDir` -/

@[simp] theorem writeDir_inst (a : Nat) (l : Bool) (s : State) : (writeDir a l s).inst = s.inst := rfl
@[simp] theorem writeDir_mem (a : Nat) (l : Bool) (s : State) : (writeDir a l s).mem = s.mem := rfl
@[simp] theorem writeDir_seqRun (a : Nat) (l : Bool) (s : State) : (writeDir a l s).seqRun = s.seqRun := rfl
@[simp] theorem writeDir_seqIdx (a : Nat) (l : Bool) (s : State) : (writeDir a l s).seqIdx = s.seqIdx := rfl
@[simp] theorem writeDir_seqPeriod (a : Nat) (l : Bool) (s : State) : (writeDir a l s).seqPeriod = s.seqPeriod := rfl
@[simp] theorem writeDir_seqMask (a : Nat) (l : Bool) (s : State) : (writeDir a l s).seqMask = s.seqMask := rfl
@[simp] theorem writeDir_seqEnd (a : Nat) (l : Bool) (s : State) : (writeDir a l s).seqEnd = s.seqEnd := rfl
@[simp] theorem writeDir_seqNext (a : Nat) (l : Bool) (s : State) : (writeDir a l s).seqNext = s.seqNext := rfl
@[simp] theorem writeDir_faultSticky (a : Nat) (l : Bool) (s : State) : (writeDir a l s).faultSticky = s.faultSticky := rfl
@[simp] theorem writeDir_cmdState (a : Nat) (l : Bool) (s : State) : (writeDir a l s).cmdState = s.cmdState := rfl
@[simp] theorem writeDir_rspStatus (a : Nat) (l : Bool) (s : State) : (writeDir a l s).rspStatus = s.rspStatus := rfl
@[simp] theorem writeDir_rspData (a : Nat) (l : Bool) (s : State) : (writeDir a l s).rspData = s.rspData := rfl
@[simp] theorem writeDir_rspValid (a : Nat) (l : Bool) (s : State) : (writeDir a l s).rspValid = s.rspValid := rfl
@[simp] theorem writeDir_cmdWord (a : Nat) (l : Bool) (s : State) : (writeDir a l s).cmdWord = s.cmdWord := rfl
@[simp] theorem writeDir_cmdArg (a : Nat) (l : Bool) (s : State) : (writeDir a l s).cmdArg = s.cmdArg := rfl
@[simp] theorem writeDir_cmdValid (a : Nat) (l : Bool) (s : State) : (writeDir a l s).cmdValid = s.cmdValid := rfl
@[simp] theorem writeDir_resetIn (a : Nat) (l : Bool) (s : State) : (writeDir a l s).resetIn = s.resetIn := rfl
@[simp] theorem writeDir_now (a : Nat) (l : Bool) (s : State) : (writeDir a l s).now = s.now := rfl
@[simp] theorem writeDir_trace (a : Nat) (l : Bool) (s : State) : (writeDir a l s).trace = s.trace ++ [⟨s.now, .dir a, l⟩] := rfl
@[simp] theorem writeDir_draws (a : Nat) (l : Bool) (s : State) : (writeDir a l s).draws = s.draws := rfl
@[simp] theorem writeDir_lane (a : Nat) (l : Bool) (s : State) : (writeDir a l s).lane = s.lane := rfl
@[simp] theorem writeDir_cmdStream (a : Nat) (l : Bool) (s : State) : (writeDir a l s).cmdStream = s.cmdStream := rfl
@[simp] theorem writeDir_resetStream (a : Nat) (l : Bool) (s : State) : (writeDir a l s).resetStream = s.resetStream := rfl

/-! ### `writeEn` -/

@[simp] theorem writeEn_inst (a : Nat) (l : Bool) (s : State) : (writeEn a l s).inst = s.inst := rfl
@[simp] theorem writeEn_mem (a : Nat) (l : Bool) (s : State) : (writeEn a l s).mem = s.mem := rfl
@[simp] theorem writeEn_seqRun (a : Nat) (l : Bool) (s : State) : (writeEn a l s).seqRun = s.seqRun := rfl
@[simp] theorem writeEn_seqIdx (a : Nat) (l : Bool) (s : State) : (writeEn a l s).seqIdx = s.seqIdx := rfl
@[simp] theorem writeEn_seqPeriod (a : Nat) (l : Bool) (s : State) : (writeEn a l s).seqPeriod = s.seqPeriod := rfl
@[simp] theorem writeEn_seqMask (a : Nat) (l : Bool) (s : State) : (writeEn a l s).seqMask = s.seqMask := rfl
@[simp] theorem writeEn_seqEnd (a : Nat) (l : Bool) (s : State) : (writeEn a l s).seqEnd = s.seqEnd := rfl
@[simp] theorem writeEn_seqNext (a : Nat) (l : Bool) (s : State) : (writeEn a l s).seqNext = s.seqNext := rfl
@[simp] theorem writeEn_faultSticky (a : Nat) (l : Bool) (s : State) : (writeEn a l s).faultSticky = s.faultSticky := rfl
@[simp] theorem writeEn_cmdState (a : Nat) (l : Bool) (s : State) : (writeEn a l s).cmdState = s.cmdState := rfl
@[simp] theorem writeEn_rspStatus (a : Nat) (l : Bool) (s : State) : (writeEn a l s).rspStatus = s.rspStatus := rfl
@[simp] theorem writeEn_rspData (a : Nat) (l : Bool) (s : State) : (writeEn a l s).rspData = s.rspData := rfl
@[simp] theorem writeEn_rspValid (a : Nat) (l : Bool) (s : State) : (writeEn a l s).rspValid = s.rspValid := rfl
@[simp] theorem writeEn_cmdWord (a : Nat) (l : Bool) (s : State) : (writeEn a l s).cmdWord = s.cmdWord := rfl
@[simp] theorem writeEn_cmdArg (a : Nat) (l : Bool) (s : State) : (writeEn a l s).cmdArg = s.cmdArg := rfl
@[simp] theorem writeEn_cmdValid (a : Nat) (l : Bool) (s : State) : (writeEn a l s).cmdValid = s.cmdValid := rfl
@[simp] theorem writeEn_resetIn (a : Nat) (l : Bool) (s : State) : (writeEn a l s).resetIn = s.resetIn := rfl
@[simp] theorem writeEn_now (a : Nat) (l : Bool) (s : State) : (writeEn a l s).now = s.now := rfl
@[simp] theorem writeEn_trace (a : Nat) (l : Bool) (s : State) : (writeEn a l s).trace = s.trace ++ [⟨s.now, .en a, l⟩] := rfl
@[simp] theorem writeEn_draws (a : Nat) (l : Bool) (s : State) : (writeEn a l s).draws = s.draws := rfl
@[simp] theorem writeEn_lane (a : Nat) (l : Bool) (s : State) : (writeEn a l s).lane = s.lane := rfl
@[simp] theorem writeEn_cmdStream (a : Nat) (l : Bool) (s : State) : (writeEn a l s).cmdStream = s.cmdStream := rfl
@[simp] theorem writeEn_resetStream (a : Nat) (l : Bool) (s : State) : (writeEn a l s).resetStream = s.resetStream := rfl

/-! ### `setDir` -/

@[simp] theorem setDir_inst (a : Nat) (d : Dir) (s : State) : (setDir a d s).inst = s.inst := rfl
@[simp] theorem setDir_mem (a : Nat) (d : Dir) (s : State) : (setDir a d s).mem = s.mem := rfl
@[simp] theorem setDir_seqRun (a : Nat) (d : Dir) (s : State) : (setDir a d s).seqRun = s.seqRun := rfl
@[simp] theorem setDir_seqIdx (a : Nat) (d : Dir) (s : State) : (setDir a d s).seqIdx = s.seqIdx := rfl
@[simp] theorem setDir_seqPeriod (a : Nat) (d : Dir) (s : State) : (setDir a d s).seqPeriod = s.seqPeriod := rfl
@[simp] theorem setDir_seqMask (a : Nat) (d : Dir) (s : State) : (setDir a d s).seqMask = s.seqMask := rfl
@[simp] theorem setDir_seqEnd (a : Nat) (d : Dir) (s : State) : (setDir a d s).seqEnd = s.seqEnd := rfl
@[simp] theorem setDir_seqNext (a : Nat) (d : Dir) (s : State) : (setDir a d s).seqNext = s.seqNext := rfl
@[simp] theorem setDir_faultSticky (a : Nat) (d : Dir) (s : State) : (setDir a d s).faultSticky = s.faultSticky := rfl
@[simp] theorem setDir_cmdState (a : Nat) (d : Dir) (s : State) : (setDir a d s).cmdState = s.cmdState := rfl
@[simp] theorem setDir_rspStatus (a : Nat) (d : Dir) (s : State) : (setDir a d s).rspStatus = s.rspStatus := rfl
@[simp] theorem setDir_rspData (a : Nat) (d : Dir) (s : State) : (setDir a d s).rspData = s.rspData := rfl
@[simp] theorem setDir_rspValid (a : Nat) (d : Dir) (s : State) : (setDir a d s).rspValid = s.rspValid := rfl
@[simp] theorem setDir_cmdWord (a : Nat) (d : Dir) (s : State) : (setDir a d s).cmdWord = s.cmdWord := rfl
@[simp] theorem setDir_cmdArg (a : Nat) (d : Dir) (s : State) : (setDir a d s).cmdArg = s.cmdArg := rfl
@[simp] theorem setDir_cmdValid (a : Nat) (d : Dir) (s : State) : (setDir a d s).cmdValid = s.cmdValid := rfl
@[simp] theorem setDir_resetIn (a : Nat) (d : Dir) (s : State) : (setDir a d s).resetIn = s.resetIn := rfl
@[simp] theorem setDir_now (a : Nat) (d : Dir) (s : State) : (setDir a d s).now = s.now := rfl
@[simp] theorem setDir_trace (a : Nat) (d : Dir) (s : State) : (setDir a d s).trace = s.trace ++ [⟨s.now, .dir a, lvlDir s.inst d⟩] := rfl
@[simp] theorem setDir_draws (a : Nat) (d : Dir) (s : State) : (setDir a d s).draws = s.draws := rfl
@[simp] theorem setDir_lane (a : Nat) (d : Dir) (s : State) : (setDir a d s).lane = s.lane := rfl
@[simp] theorem setDir_cmdStream (a : Nat) (d : Dir) (s : State) : (setDir a d s).cmdStream = s.cmdStream := rfl
@[simp] theorem setDir_resetStream (a : Nat) (d : Dir) (s : State) : (setDir a d s).resetStream = s.resetStream := rfl

/-! ### `setEnable` -/

@[simp] theorem setEnable_inst (a : Nat) (e : Bool) (s : State) : (setEnable a e s).inst = s.inst := rfl
@[simp] theorem setEnable_mem (a : Nat) (e : Bool) (s : State) : (setEnable a e s).mem = s.mem := rfl
@[simp] theorem setEnable_seqRun (a : Nat) (e : Bool) (s : State) : (setEnable a e s).seqRun = s.seqRun := rfl
@[simp] theorem setEnable_seqIdx (a : Nat) (e : Bool) (s : State) : (setEnable a e s).seqIdx = s.seqIdx := rfl
@[simp] theorem setEnable_seqPeriod (a : Nat) (e : Bool) (s : State) : (setEnable a e s).seqPeriod = s.seqPeriod := rfl
@[simp] theorem setEnable_seqMask (a : Nat) (e : Bool) (s : State) : (setEnable a e s).seqMask = s.seqMask := rfl
@[simp] theorem setEnable_seqEnd (a : Nat) (e : Bool) (s : State) : (setEnable a e s).seqEnd = s.seqEnd := rfl
@[simp] theorem setEnable_seqNext (a : Nat) (e : Bool) (s : State) : (setEnable a e s).seqNext = s.seqNext := rfl
@[simp] theorem setEnable_faultSticky (a : Nat) (e : Bool) (s : State) : (setEnable a e s).faultSticky = s.faultSticky := rfl
@[simp] theorem setEnable_cmdState (a : Nat) (e : Bool) (s : State) : (setEnable a e s).cmdState = s.cmdState := rfl
@[simp] theorem setEnable_rspStatus (a : Nat) (e : Bool) (s : State) : (setEnable a e s).rspStatus = s.rspStatus := rfl
@[simp] theorem setEnable_rspData (a : Nat) (e : Bool) (s : State) : (setEnable a e s).rspData = s.rspData := rfl
@[simp] theorem setEnable_rspValid (a : Nat) (e : Bool) (s : State) : (setEnable a e s).rspValid = s.rspValid := rfl
@[simp] theorem setEnable_cmdWord (a : Nat) (e : Bool) (s : State) : (setEnable a e s).cmdWord = s.cmdWord := rfl
@[simp] theorem setEnable_cmdArg (a : Nat) (e : Bool) (s : State) : (setEnable a e s).cmdArg = s.cmdArg := rfl
@[simp] theorem setEnable_cmdValid (a : Nat) (e : Bool) (s : State) : (setEnable a e s).cmdValid = s.cmdValid := rfl
@[simp] theorem setEnable_resetIn (a : Nat) (e : Bool) (s : State) : (setEnable a e s).resetIn = s.resetIn := rfl
@[simp] theorem setEnable_now (a : Nat) (e : Bool) (s : State) : (setEnable a e s).now = s.now := rfl
@[simp] theorem setEnable_trace (a : Nat) (e : Bool) (s : State) : (setEnable a e s).trace = s.trace ++ [⟨s.now, .en a, lvlEn s.inst e⟩] := rfl
@[simp] theorem setEnable_draws (a : Nat) (e : Bool) (s : State) : (setEnable a e s).draws = s.draws := rfl
@[simp] theorem setEnable_lane (a : Nat) (e : Bool) (s : State) : (setEnable a e s).lane = s.lane := rfl
@[simp] theorem setEnable_cmdStream (a : Nat) (e : Bool) (s : State) : (setEnable a e s).cmdStream = s.cmdStream := rfl
@[simp] theorem setEnable_resetStream (a : Nat) (e : Bool) (s : State) : (setEnable a e s).resetStream = s.resetStream := rfl

/-! ### `storeWidth` -/

@[simp] theorem storeWidth_inst (a : Nat) (q : Rat) (s : State) : (storeWidth a q s).inst = s.inst := rfl
@[simp] theorem storeWidth_mem (a : Nat) (q : Rat) (s : State) : (storeWidth a q s).mem = s.mem := rfl
@[simp] theorem storeWidth_seqRun (a : Nat) (q : Rat) (s : State) : (storeWidth a q s).seqRun = s.seqRun := rfl
@[simp] theorem storeWidth_seqIdx (a : Nat) (q : Rat) (s : State) : (storeWidth a q s).seqIdx = s.seqIdx := rfl
@[simp] theorem storeWidth_seqPeriod (a : Nat) (q : Rat) (s : State) : (storeWidth a q s).seqPeriod = s.seqPeriod := rfl
@[simp] theorem storeWidth_seqMask (a : Nat) (q : Rat) (s : State) : (storeWidth a q s).seqMask = s.seqMask := rfl
@[simp] theorem storeWidth_seqEnd (a : Nat) (q : Rat) (s : State) : (storeWidth a q s).seqEnd = s.seqEnd := rfl
@[simp] theorem storeWidth_seqNext (a : Nat) (q : Rat) (s : State) : (storeWidth a q s).seqNext = s.seqNext := rfl
@[simp] theorem storeWidth_faultSticky (a : Nat) (q : Rat) (s : State) : (storeWidth a q s).faultSticky = s.faultSticky := rfl
@[simp] theorem storeWidth_cmdState (a : Nat) (q : Rat) (s : State) : (storeWidth a q s).cmdState = s.cmdState := rfl
@[simp] theorem storeWidth_rspStatus (a : Nat) (q : Rat) (s : State) : (storeWidth a q s).rspStatus = s.rspStatus := rfl
@[simp] theorem storeWidth_rspData (a : Nat) (q : Rat) (s : State) : (storeWidth a q s).rspData = s.rspData := rfl
@[simp] theorem storeWidth_rspValid (a : Nat) (q : Rat) (s : State) : (storeWidth a q s).rspValid = s.rspValid := rfl
@[simp] theorem storeWidth_cmdWord (a : Nat) (q : Rat) (s : State) : (storeWidth a q s).cmdWord = s.cmdWord := rfl
@[simp] theorem storeWidth_cmdArg (a : Nat) (q : Rat) (s : State) : (storeWidth a q s).cmdArg = s.cmdArg := rfl
@[simp] theorem storeWidth_cmdValid (a : Nat) (q : Rat) (s : State) : (storeWidth a q s).cmdValid = s.cmdValid := rfl
@[simp] theorem storeWidth_resetIn (a : Nat) (q : Rat) (s : State) : (storeWidth a q s).resetIn = s.resetIn := rfl
@[simp] theorem storeWidth_now (a : Nat) (q : Rat) (s : State) : (storeWidth a q s).now = s.now := rfl
@[simp] theorem storeWidth_trace (a : Nat) (q : Rat) (s : State) : (storeWidth a q s).trace = s.trace := rfl
@[simp] theorem storeWidth_draws (a : Nat) (q : Rat) (s : State) : (storeWidth a q s).draws = s.draws := rfl
@[simp] theorem storeWidth_lane (a : Nat) (q : Rat) (s : State) : (storeWidth a q s).lane = s.lane := rfl
@[simp] theorem storeWidth_cmdStream (a : Nat) (q : Rat) (s : State) : (storeWidth a q s).cmdStream = s.cmdStream := rfl
@[simp] theorem storeWidth_resetStream (a : Nat) (q : Rat) (s : State) : (storeWidth a q s).resetStream = s.resetStream := rfl

/-! ### `setRef` -/

@[simp] theorem setRef_inst (a : Nat) (r : Rat) (s : State) : (setRef a r s).inst = s.inst := rfl
@[simp] theorem setRef_mem (a : Nat) (r : Rat) (s : State) : (setRef a r s).mem = s.mem := rfl
@[simp] theorem setRef_seqRun (a : Nat) (r : Rat) (s : State) : (setRef a r s).seqRun = s.seqRun := rfl
@[simp] theorem setRef_seqIdx (a : Nat) (r : Rat) (s : State) : (setRef a r s).seqIdx = s.seqIdx := rfl
@[simp] theorem setRef_seqPeriod (a : Nat) (r : Rat) (s : State) : (setRef a r s).seqPeriod = s.seqPeriod := rfl
@[simp] theorem setRef_seqMask (a : Nat) (r : Rat) (s : State) : (setRef a r s).seqMask = s.seqMask := rfl
@[simp] theorem setRef_seqEnd (a : Nat) (r : Rat) (s : State) : (setRef a r s).seqEnd = s.seqEnd := rfl
@[simp] theorem setRef_seqNext (a : Nat) (r : Rat) (s : State) : (setRef a r s).seqNext = s.seqNext := rfl
@[simp] theorem setRef_faultSticky (a : Nat) (r : Rat) (s : State) : (setRef a r s).faultSticky = s.faultSticky := rfl
@[simp] theorem setRef_cmdState (a : Nat) (r : Rat) (s : State) : (setRef a r s).cmdState = s.cmdState := rfl
@[simp] theorem setRef_rspStatus (a : Nat) (r : Rat) (s : State) : (setRef a r s).rspStatus = s.rspStatus := rfl
@[simp] theorem setRef_rspData (a : Nat) (r : Rat) (s : State) : (setRef a r s).rspData = s.rspData := rfl
@[simp] theorem setRef_rspValid (a : Nat) (r : Rat) (s : State) : (setRef a r s).rspValid = s.rspValid := rfl
@[simp] theorem setRef_cmdWord (a : Nat) (r : Rat) (s : State) : (setRef a r s).cmdWord = s.cmdWord := rfl
@[simp] theorem setRef_cmdArg (a : Nat) (r : Rat) (s : State) : (setRef a r s).cmdArg = s.cmdArg := rfl
@[simp] theorem setRef_cmdValid (a : Nat) (r : Rat) (s : State) : (setRef a r s).cmdValid = s.cmdValid := rfl
@[simp] theorem setRef_resetIn (a : Nat) (r : Rat) (s : State) : (setRef a r s).resetIn = s.resetIn := rfl
@[simp] theorem setRef_now (a : Nat) (r : Rat) (s : State) : (setRef a r s).now = s.now := rfl
@[simp] theorem setRef_trace (a : Nat) (r : Rat) (s : State) : (setRef a r s).trace = s.trace := rfl
@[simp] theorem setRef_draws (a : Nat) (r : Rat) (s : State) : (setRef a r s).draws = s.draws := rfl
@[simp] theorem setRef_lane (a : Nat) (r : Rat) (s : State) : (setRef a r s).lane = s.lane := rfl
@[simp] theorem setRef_cmdStream (a : Nat) (r : Rat) (s : State) : (setRef a r s).cmdStream = s.cmdStream := rfl
@[simp] theorem setRef_resetStream (a : Nat) (r : Rat) (s : State) : (setRef a r s).resetStream = s.resetStream := rfl

/-! ### `updateRef` -/

@[simp] theorem updateRef_inst (a : Nat) (s : State) : (updateRef a s).inst = s.inst := rfl
@[simp] theorem updateRef_mem (a : Nat) (s : State) : (updateRef a s).mem = s.mem := rfl
@[simp] theorem updateRef_seqRun (a : Nat) (s : State) : (updateRef a s).seqRun = s.seqRun := rfl
@[simp] theorem updateRef_seqIdx (a : Nat) (s : State) : (updateRef a s).seqIdx = s.seqIdx := rfl
@[simp] theorem updateRef_seqPeriod (a : Nat) (s : State) : (updateRef a s).seqPeriod = s.seqPeriod := rfl
@[simp] theorem updateRef_seqMask (a : Nat) (s : State) : (updateRef a s).seqMask = s.seqMask := rfl
@[simp] theorem updateRef_seqEnd (a : Nat) (s : State) : (updateRef a s).seqEnd = s.seqEnd := rfl
@[simp] theorem updateRef_seqNext (a : Nat) (s : State) : (updateRef a s).seqNext = s.seqNext := rfl
@[simp] theorem updateRef_faultSticky (a : Nat) (s : State) : (updateRef a s).faultSticky = s.faultSticky := rfl
@[simp] theorem updateRef_cmdState (a : Nat) (s : State) : (updateRef a s).cmdState = s.cmdState := rfl
@[simp] theorem updateRef_rspStatus (a : Nat) (s : State) : (updateRef a s).rspStatus = s.rspStatus := rfl
@[simp] theorem updateRef_rspData (a : Nat) (s : State) : (updateRef a s).rspData = s.rspData := rfl
@[simp] theorem updateRef_rspValid (a : Nat) (s : State) : (updateRef a s).rspValid = s.rspValid := rfl
@[simp] theorem updateRef_cmdWord (a : Nat) (s : State) : (updateRef a s).cmdWord = s.cmdWord := rfl
@[simp] theorem updateRef_cmdArg (a : Nat) (s : State) : (updateRef a s).cmdArg = s.cmdArg := rfl
@[simp] theorem updateRef_cmdValid (a : Nat) (s : State) : (updateRef a s).cmdValid = s.cmdValid := rfl
@[simp] theorem updateRef_resetIn (a : Nat) (s : State) : (updateRef a s).resetIn = s.resetIn := rfl
@[simp] theorem updateRef_now (a : Nat) (s : State) : (updateRef a s).now = s.now := rfl
@[simp] theorem updateRef_trace (a : Nat) (s : State) : (updateRef a s).trace = s.trace := rfl
@[simp] theorem updateRef_draws (a : Nat) (s : State) : (updateRef a s).draws = s.draws := rfl
@[simp] theorem updateRef_lane (a : Nat) (s : State) : (updateRef a s).lane = s.lane := rfl
@[simp] theorem updateRef_cmdStream (a : Nat) (s : State) : (updateRef a s).cmdStream = s.cmdStream := rfl
@[simp] theorem updateRef_resetStream (a : Nat) (s : State) : (updateRef a s).resetStream = s.resetStream := rfl

/-! ### `startSwing` -/

@[simp] theorem startSwing_inst (a ms : Nat) (s : State) : (startSwing a ms s).inst = s.inst := rfl
@[simp] theorem startSwing_mem (a ms : Nat) (s : State) : (startSwing a ms s).mem = s.mem := rfl
@[simp] theorem startSwing_seqRun (a ms : Nat) (s : State) : (startSwing a ms s).seqRun = s.seqRun := rfl
@[simp] theorem startSwing_seqIdx (a ms : Nat) (s : State) : (startSwing a ms s).seqIdx = s.seqIdx := rfl
@[simp] theorem startSwing_seqPeriod (a ms : Nat) (s : State) : (startSwing a ms s).seqPeriod = s.seqPeriod := rfl
@[simp] theorem startSwing_seqMask (a ms : Nat) (s : State) : (startSwing a ms s).seqMask = s.seqMask := rfl
@[simp] theorem startSwing_seqEnd (a ms : Nat) (s : State) : (startSwing a ms s).seqEnd = s.seqEnd := rfl
@[simp] theorem startSwing_seqNext (a ms : Nat) (s : State) : (startSwing a ms s).seqNext = s.seqNext := rfl
@[simp] theorem startSwing_faultSticky (a ms : Nat) (s : State) : (startSwing a ms s).faultSticky = s.faultSticky := rfl
@[simp] theorem startSwing_cmdState (a ms : Nat) (s : State) : (startSwing a ms s).cmdState = s.cmdState := rfl
@[simp] theorem startSwing_rspStatus (a ms : Nat) (s : State) : (startSwing a ms s).rspStatus = s.rspStatus := rfl
@[simp] theorem startSwing_rspData (a ms : Nat) (s : State) : (startSwing a ms s).rspData = s.rspData := rfl
@[simp] theorem startSwing_rspValid (a ms : Nat) (s : State) : (startSwing a ms s).rspValid = s.rspValid := rfl
@[simp] theorem startSwing_cmdWord (a ms : Nat) (s : State) : (startSwing a ms s).cmdWord = s.cmdWord := rfl
@[simp] theorem startSwing_cmdArg (a ms : Nat) (s : State) : (startSwing a ms s).cmdArg = s.cmdArg := rfl
@[simp] theorem startSwing_cmdValid (a ms : Nat) (s : State) : (startSwing a ms s).cmdValid = s.cmdValid := rfl
@[simp] theorem startSwing_resetIn (a ms : Nat) (s : State) : (startSwing a ms s).resetIn = s.resetIn := rfl
@[simp] theorem startSwing_now (a ms : Nat) (s : State) : (startSwing a ms s).now = s.now := rfl
@[simp] theorem startSwing_trace (a ms : Nat) (s : State) : (startSwing a ms s).trace = s.trace := rfl
@[simp] theorem startSwing_draws (a ms : Nat) (s : State) : (startSwing a ms s).draws = s.draws := rfl
@[simp] theorem startSwing_lane (a ms : Nat) (s : State) : (startSwing a ms s).lane = s.lane := rfl
@[simp] theorem startSwing_cmdStream (a ms : Nat) (s : State) : (startSwing a ms s).cmdStream = s.cmdStream := rfl
@[simp] theorem startSwing_resetStream (a ms : Nat) (s : State) : (startSwing a ms s).resetStream = s.resetStream := rfl

/-! ### `cancelSwing` -/

@[simp] theorem cancelSwing_inst (a : Nat) (s : State) : (cancelSwing a s).inst = s.inst := rfl
@[simp] theorem cancelSwing_mem (a : Nat) (s : State) : (cancelSwing a s).mem = s.mem := rfl
@[simp] theorem cancelSwing_seqRun (a : Nat) (s : State) : (cancelSwing a s).seqRun = s.seqRun := rfl
@[simp] theorem cancelSwing_seqIdx (a : Nat) (s : State) : (cancelSwing a s).seqIdx = s.seqIdx := rfl
@[simp] theorem cancelSwing_seqPeriod (a : Nat) (s : State) : (cancelSwing a s).seqPeriod = s.seqPeriod := rfl
@[simp] theorem cancelSwing_seqMask (a : Nat) (s : State) : (cancelSwing a s).seqMask = s.seqMask := rfl
@[simp] theorem cancelSwing_seqEnd (a : Nat) (s : State) : (cancelSwing a s).seqEnd = s.seqEnd := rfl
@[simp] theorem cancelSwing_seqNext (a : Nat) (s : State) : (cancelSwing a s).seqNext = s.seqNext := rfl
@[simp] theorem cancelSwing_faultSticky (a : Nat) (s : State) : (cancelSwing a s).faultSticky = s.faultSticky := rfl
@[simp] theorem cancelSwing_cmdState (a : Nat) (s : State) : (cancelSwing a s).cmdState = s.cmdState := rfl
@[simp] theorem cancelSwing_rspStatus (a : Nat) (s : State) : (cancelSwing a s).rspStatus = s.rspStatus := rfl
@[simp] theorem cancelSwing_rspData (a : Nat) (s : State) : (cancelSwing a s).rspData = s.rspData := rfl
@[simp] theorem cancelSwing_rspValid (a : Nat) (s : State) : (cancelSwing a s).rspValid = s.rspValid := rfl
@[simp] theorem cancelSwing_cmdWord (a : Nat) (s : State) : (cancelSwing a s).cmdWord = s.cmdWord := rfl
@[simp] theorem cancelSwing_cmdArg (a : Nat) (s : State) : (cancelSwing a s).cmdArg = s.cmdArg := rfl
@[simp] theorem cancelSwing_cmdValid (a : Nat) (s : State) : (cancelSwing a s).cmdValid = s.cmdValid := rfl
@[simp] theorem cancelSwing_resetIn (a : Nat) (s : State) : (cancelSwing a s).resetIn = s.resetIn := rfl
@[simp] theorem cancelSwing_now (a : Nat) (s : State) : (cancelSwing a s).now = s.now := rfl
@[simp] theorem cancelSwing_trace (a : Nat) (s : State) : (cancelSwing a s).trace = s.trace := rfl
@[simp] theorem cancelSwing_draws (a : Nat) (s : State) : (cancelSwing a s).draws = s.draws := rfl
@[simp] theorem cancelSwing_lane (a : Nat) (s : State) : (cancelSwing a s).lane = s.lane := rfl
@[simp] theorem cancelSwing_cmdStream (a : Nat) (s : State) : (cancelSwing a s).cmdStream = s.cmdStream := rfl
@[simp] theorem cancelSwing_resetStream (a : Nat) (s : State) : (cancelSwing a s).resetStream = s.resetStream := rfl

/-! ### `swingToggle` -/

@[simp] theorem swingToggle_inst (a : Nat) (t : Time) (s : State) : (swingToggle a t s).inst = s.inst := rfl
@[simp] theorem swingToggle_mem (a : Nat) (t : Time) (s : State) : (swingToggle a t s).mem = s.mem := rfl
@[simp] theorem swingToggle_seqRun (a : Nat) (t : Time) (s : State) : (swingToggle a t s).seqRun = s.seqRun := rfl
@[simp] theorem swingToggle_seqIdx (a : Nat) (t : Time) (s : State) : (swingToggle a t s).seqIdx = s.seqIdx := rfl
@[simp] theorem swingToggle_seqPeriod (a : Nat) (t : Time) (s : State) : (swingToggle a t s).seqPeriod = s.seqPeriod := rfl
@[simp] theorem swingToggle_seqMask (a : Nat) (t : Time) (s : State) : (swingToggle a t s).seqMask = s.seqMask := rfl
@[simp] theorem swingToggle_seqEnd (a : Nat) (t : Time) (s : State) : (swingToggle a t s).seqEnd = s.seqEnd := rfl
@[simp] theorem swingToggle_seqNext (a : Nat) (t : Time) (s : State) : (swingToggle a t s).seqNext = s.seqNext := rfl
@[simp] theorem swingToggle_faultSticky (a : Nat) (t : Time) (s : State) : (swingToggle a t s).faultSticky = s.faultSticky := rfl
@[simp] theorem swingToggle_cmdState (a : Nat) (t : Time) (s : State) : (swingToggle a t s).cmdState = s.cmdState := rfl
@[simp] theorem swingToggle_rspStatus (a : Nat) (t : Time) (s : State) : (swingToggle a t s).rspStatus = s.rspStatus := rfl
@[simp] theorem swingToggle_rspData (a : Nat) (t : Time) (s : State) : (swingToggle a t s).rspData = s.rspData := rfl
@[simp] theorem swingToggle_rspValid (a : Nat) (t : Time) (s : State) : (swingToggle a t s).rspValid = s.rspValid := rfl
@[simp] theorem swingToggle_cmdWord (a : Nat) (t : Time) (s : State) : (swingToggle a t s).cmdWord = s.cmdWord := rfl
@[simp] theorem swingToggle_cmdArg (a : Nat) (t : Time) (s : State) : (swingToggle a t s).cmdArg = s.cmdArg := rfl
@[simp] theorem swingToggle_cmdValid (a : Nat) (t : Time) (s : State) : (swingToggle a t s).cmdValid = s.cmdValid := rfl
@[simp] theorem swingToggle_resetIn (a : Nat) (t : Time) (s : State) : (swingToggle a t s).resetIn = s.resetIn := rfl
@[simp] theorem swingToggle_now (a : Nat) (t : Time) (s : State) : (swingToggle a t s).now = s.now := rfl
@[simp] theorem swingToggle_trace (a : Nat) (t : Time) (s : State) : (swingToggle a t s).trace = s.trace ++ [⟨s.now, .dir a, lvlDir s.inst (s.ax a).dir.flip⟩] := rfl
@[simp] theorem swingToggle_draws (a : Nat) (t : Time) (s : State) : (swingToggle a t s).draws = s.draws := rfl
@[simp] theorem swingToggle_lane (a : Nat) (t : Time) (s : State) : (swingToggle a t s).lane = s.lane := rfl
@[simp] theorem swingToggle_cmdStream (a : Nat) (t : Time) (s : State) : (swingToggle a t s).cmdStream = s.cmdStream := rfl
@[simp] theorem swingToggle_resetStream (a : Nat) (t : Time) (s : State) : (swingToggle a t s).resetStream = s.resetStream := rfl

/-! ### `pwmEdge` -/

@[simp] theorem pwmEdge_inst (a : Nat) (t : Time) (s : State) : (pwmEdge a t s).inst = s.inst := rfl
@[simp] theorem pwmEdge_mem (a : Nat) (t : Time) (s : State) : (pwmEdge a t s).mem = s.mem := rfl
@[simp] theorem pwmEdge_seqRun (a : Nat) (t : Time) (s : State) : (pwmEdge a t s).seqRun = s.seqRun := rfl
@[simp] theorem pwmEdge_seqIdx (a : Nat) (t : Time) (s : State) : (pwmEdge a t s).seqIdx = s.seqIdx := rfl
@[simp] theorem pwmEdge_seqPeriod (a : Nat) (t : Time) (s : State) : (pwmEdge a t s).seqPeriod = s.seqPeriod := rfl
@[simp] theorem pwmEdge_seqMask (a : Nat) (t : Time) (s : State) : (pwmEdge a t s).seqMask = s.seqMask := rfl
@[simp] theorem pwmEdge_seqEnd (a : Nat) (t : Time) (s : State) : (pwmEdge a t s).seqEnd = s.seqEnd := rfl
@[simp] theorem pwmEdge_seqNext (a : Nat) (t : Time) (s : State) : (pwmEdge a t s).seqNext = s.seqNext := rfl
@[simp] theorem pwmEdge_faultSticky (a : Nat) (t : Time) (s : State) : (pwmEdge a t s).faultSticky = s.faultSticky := rfl
@[simp] theorem pwmEdge_cmdState (a : Nat) (t : Time) (s : State) : (pwmEdge a t s).cmdState = s.cmdState := rfl
@[simp] theorem pwmEdge_rspStatus (a : Nat) (t : Time) (s : State) : (pwmEdge a t s).rspStatus = s.rspStatus := rfl
@[simp] theorem pwmEdge_rspData (a : Nat) (t : Time) (s : State) : (pwmEdge a t s).rspData = s.rspData := rfl
@[simp] theorem pwmEdge_rspValid (a : Nat) (t : Time) (s : State) : (pwmEdge a t s).rspValid = s.rspValid := rfl
@[simp] theorem pwmEdge_cmdWord (a : Nat) (t : Time) (s : State) : (pwmEdge a t s).cmdWord = s.cmdWord := rfl
@[simp] theorem pwmEdge_cmdArg (a : Nat) (t : Time) (s : State) : (pwmEdge a t s).cmdArg = s.cmdArg := rfl
@[simp] theorem pwmEdge_cmdValid (a : Nat) (t : Time) (s : State) : (pwmEdge a t s).cmdValid = s.cmdValid := rfl
@[simp] theorem pwmEdge_resetIn (a : Nat) (t : Time) (s : State) : (pwmEdge a t s).resetIn = s.resetIn := rfl
@[simp] theorem pwmEdge_now (a : Nat) (t : Time) (s : State) : (pwmEdge a t s).now = s.now := rfl
@[simp] theorem pwmEdge_trace (a : Nat) (t : Time) (s : State) : (pwmEdge a t s).trace = s.trace ++ [⟨s.now, .step a, !(s.ax a).stepPin⟩] := rfl
@[simp] theorem pwmEdge_draws (a : Nat) (t : Time) (s : State) : (pwmEdge a t s).draws = s.draws := rfl
@[simp] theorem pwmEdge_lane (a : Nat) (t : Time) (s : State) : (pwmEdge a t s).lane = s.lane := rfl
@[simp] theorem pwmEdge_cmdStream (a : Nat) (t : Time) (s : State) : (pwmEdge a t s).cmdStream = s.cmdStream := rfl
@[simp] theorem pwmEdge_resetStream (a : Nat) (t : Time) (s : State) : (pwmEdge a t s).resetStream = s.resetStream := rfl

/-! ### `startGenerator` -/

@[simp] theorem startGenerator_inst (a : Nat) (s : State) : (startGenerator a s).inst = s.inst := rfl
@[simp] theorem startGenerator_mem (a : Nat) (s : State) : (startGenerator a s).mem = s.mem := rfl
@[simp] theorem startGenerator_seqRun (a : Nat) (s : State) : (startGenerator a s).seqRun = s.seqRun := rfl
@[simp] theorem startGenerator_seqIdx (a : Nat) (s : State) : (startGenerator a s).seqIdx = s.seqIdx := rfl
@[simp] theorem startGenerator_seqPeriod (a : Nat) (s : State) : (startGenerator a s).seqPeriod = s.seqPeriod := rfl
@[simp] theorem startGenerator_seqMask (a : Nat) (s : State) : (startGenerator a s).seqMask = s.seqMask := rfl
@[simp] theorem startGenerator_seqEnd (a : Nat) (s : State) : (startGenerator a s).seqEnd = s.seqEnd := rfl
@[simp] theorem startGenerator_seqNext (a : Nat) (s : State) : (startGenerator a s).seqNext = s.seqNext := rfl
@[simp] theorem startGenerator_faultSticky (a : Nat) (s : State) : (startGenerator a s).faultSticky = s.faultSticky := rfl
@[simp] theorem startGenerator_cmdState (a : Nat) (s : State) : (startGenerator a s).cmdState = s.cmdState := rfl
@[simp] theorem startGenerator_rspStatus (a : Nat) (s : State) : (startGenerator a s).rspStatus = s.rspStatus := rfl
@[simp] theorem startGenerator_rspData (a : Nat) (s : State) : (startGenerator a s).rspData = s.rspData := rfl
@[simp] theorem startGenerator_rspValid (a : Nat) (s : State) : (startGenerator a s).rspValid = s.rspValid := rfl
@[simp] theorem startGenerator_cmdWord (a : Nat) (s : State) : (startGenerator a s).cmdWord = s.cmdWord := rfl
@[simp] theorem startGenerator_cmdArg (a : Nat) (s : State) : (startGenerator a s).cmdArg = s.cmdArg := rfl
@[simp] theorem startGenerator_cmdValid (a : Nat) (s : State) : (startGenerator a s).cmdValid = s.cmdValid := rfl
@[simp] theorem startGenerator_resetIn (a : Nat) (s : State) : (startGenerator a s).resetIn = s.resetIn := rfl
@[simp] theorem startGenerator_now (a : Nat) (s : State) : (startGenerator a s).now = s.now := rfl
@[simp] theorem startGenerator_trace (a : Nat) (s : State) : (startGenerator a s).trace = s.trace ++ [⟨s.now, .step a, Config.freeLevel s.draws⟩] := rfl
@[simp] theorem startGenerator_draws (a : Nat) (s : State) : (startGenerator a s).draws = s.draws + 1 := rfl
@[simp] theorem startGenerator_lane (a : Nat) (s : State) : (startGenerator a s).lane = s.lane := rfl
@[simp] theorem startGenerator_cmdStream (a : Nat) (s : State) : (startGenerator a s).cmdStream = s.cmdStream := rfl
@[simp] theorem startGenerator_resetStream (a : Nat) (s : State) : (startGenerator a s).resetStream = s.resetStream := rfl

/-! ### `stopGenerator` -/

@[simp] theorem stopGenerator_inst (a : Nat) (s : State) : (stopGenerator a s).inst = s.inst := rfl
@[simp] theorem stopGenerator_mem (a : Nat) (s : State) : (stopGenerator a s).mem = s.mem := rfl
@[simp] theorem stopGenerator_seqRun (a : Nat) (s : State) : (stopGenerator a s).seqRun = s.seqRun := rfl
@[simp] theorem stopGenerator_seqIdx (a : Nat) (s : State) : (stopGenerator a s).seqIdx = s.seqIdx := rfl
@[simp] theorem stopGenerator_seqPeriod (a : Nat) (s : State) : (stopGenerator a s).seqPeriod = s.seqPeriod := rfl
@[simp] theorem stopGenerator_seqMask (a : Nat) (s : State) : (stopGenerator a s).seqMask = s.seqMask := rfl
@[simp] theorem stopGenerator_seqEnd (a : Nat) (s : State) : (stopGenerator a s).seqEnd = s.seqEnd := rfl
@[simp] theorem stopGenerator_seqNext (a : Nat) (s : State) : (stopGenerator a s).seqNext = s.seqNext := rfl
@[simp] theorem stopGenerator_faultSticky (a : Nat) (s : State) : (stopGenerator a s).faultSticky = s.faultSticky := rfl
@[simp] theorem stopGenerator_cmdState (a : Nat) (s : State) : (stopGenerator a s).cmdState = s.cmdState := rfl
@[simp] theorem stopGenerator_rspStatus (a : Nat) (s : State) : (stopGenerator a s).rspStatus = s.rspStatus := rfl
@[simp] theorem stopGenerator_rspData (a : Nat) (s : State) : (stopGenerator a s).rspData = s.rspData := rfl
@[simp] theorem stopGenerator_rspValid (a : Nat) (s : State) : (stopGenerator a s).rspValid = s.rspValid := rfl
@[simp] theorem stopGenerator_cmdWord (a : Nat) (s : State) : (stopGenerator a s).cmdWord = s.cmdWord := rfl
@[simp] theorem stopGenerator_cmdArg (a : Nat) (s : State) : (stopGenerator a s).cmdArg = s.cmdArg := rfl
@[simp] theorem stopGenerator_cmdValid (a : Nat) (s : State) : (stopGenerator a s).cmdValid = s.cmdValid := rfl
@[simp] theorem stopGenerator_resetIn (a : Nat) (s : State) : (stopGenerator a s).resetIn = s.resetIn := rfl
@[simp] theorem stopGenerator_now (a : Nat) (s : State) : (stopGenerator a s).now = s.now := rfl
@[simp] theorem stopGenerator_trace (a : Nat) (s : State) : (stopGenerator a s).trace = s.trace ++ [⟨s.now, .step a, false⟩] := rfl
@[simp] theorem stopGenerator_draws (a : Nat) (s : State) : (stopGenerator a s).draws = s.draws := rfl
@[simp] theorem stopGenerator_lane (a : Nat) (s : State) : (stopGenerator a s).lane = s.lane := rfl
@[simp] theorem stopGenerator_cmdStream (a : Nat) (s : State) : (stopGenerator a s).cmdStream = s.cmdStream := rfl
@[simp] theorem stopGenerator_resetStream (a : Nat) (s : State) : (stopGenerator a s).resetStream = s.resetStream := rfl

/-! ### `seqStore` -/

@[simp] theorem seqStore_inst (a i : Nat) (e : Entry) (s : State) : (seqStore a i e s).inst = s.inst := rfl
@[simp] theorem seqStore_axes (a i : Nat) (e : Entry) (s : State) : (seqStore a i e s).axes = s.axes := rfl
@[simp] theorem seqStore_mem (a i : Nat) (e : Entry) (s : State) : (seqStore a i e s).mem = memWrite s.mem (cellOf a i) (byteOfEntry e) := rfl
@[simp] theorem seqStore_seqRun (a i : Nat) (e : Entry) (s : State) : (seqStore a i e s).seqRun = s.seqRun := rfl
@[simp] theorem seqStore_seqIdx (a i : Nat) (e : Entry) (s : State) : (seqStore a i e s).seqIdx = s.seqIdx := rfl
@[simp] theorem seqStore_seqPeriod (a i : Nat) (e : Entry) (s : State) : (seqStore a i e s).seqPeriod = s.seqPeriod := rfl
@[simp] theorem seqStore_seqMask (a i : Nat) (e : Entry) (s : State) : (seqStore a i e s).seqMask = s.seqMask := rfl
@[simp] theorem seqStore_seqEnd (a i : Nat) (e : Entry) (s : State) : (seqStore a i e s).seqEnd = s.seqEnd := rfl
@[simp] theorem seqStore_seqNext (a i : Nat) (e : Entry) (s : State) : (seqStore a i e s).seqNext = s.seqNext := rfl
@[simp] theorem seqStore_faultSticky (a i : Nat) (e : Entry) (s : State) : (seqStore a i e s).faultSticky = s.faultSticky := rfl
@[simp] theorem seqStore_cmdState (a i : Nat) (e : Entry) (s : State) : (seqStore a i e s).cmdState = s.cmdState := rfl
@[simp] theorem seqStore_rspStatus (a i : Nat) (e : Entry) (s : State) : (seqStore a i e s).rspStatus = s.rspStatus := rfl
@[simp] theorem seqStore_rspData (a i : Nat) (e : Entry) (s : State) : (seqStore a i e s).rspData = s.rspData := rfl
@[simp] theorem seqStore_rspValid (a i : Nat) (e : Entry) (s : State) : (seqStore a i e s).rspValid = s.rspValid := rfl
@[simp] theorem seqStore_cmdWord (a i : Nat) (e : Entry) (s : State) : (seqStore a i e s).cmdWord = s.cmdWord := rfl
@[simp] theorem seqStore_cmdArg (a i : Nat) (e : Entry) (s : State) : (seqStore a i e s).cmdArg = s.cmdArg := rfl
@[simp] theorem seqStore_cmdValid (a i : Nat) (e : Entry) (s : State) : (seqStore a i e s).cmdValid = s.cmdValid := rfl
@[simp] theorem seqStore_resetIn (a i : Nat) (e : Entry) (s : State) : (seqStore a i e s).resetIn = s.resetIn := rfl
@[simp] theorem seqStore_now (a i : Nat) (e : Entry) (s : State) : (seqStore a i e s).now = s.now := rfl
@[simp] theorem seqStore_trace (a i : Nat) (e : Entry) (s : State) : (seqStore a i e s).trace = s.trace := rfl
@[simp] theorem seqStore_draws (a i : Nat) (e : Entry) (s : State) : (seqStore a i e s).draws = s.draws := rfl
@[simp] theorem seqStore_lane (a i : Nat) (e : Entry) (s : State) : (seqStore a i e s).lane = s.lane := rfl
@[simp] theorem seqStore_cmdStream (a i : Nat) (e : Entry) (s : State) : (seqStore a i e s).cmdStream = s.cmdStream := rfl
@[simp] theorem seqStore_resetStream (a i : Nat) (e : Entry) (s : State) : (seqStore a i e s).resetStream = s.resetStream := rfl
@[simp] theorem seqStore_ax (a i : Nat) (e : Entry) (s : State) (b : Nat) : (seqStore a i e s).ax b = s.ax b := rfl

/-! ### `respond` -/

@[simp] theorem respond_inst (d : Word) (s : State) : (respond d s).inst = s.inst := rfl
@[simp] theorem respond_axes (d : Word) (s : State) : (respond d s).axes = s.axes := rfl
@[simp] theorem respond_mem (d : Word) (s : State) : (respond d s).mem = s.mem := rfl
@[simp] theorem respond_seqRun (d : Word) (s : State) : (respond d s).seqRun = s.seqRun := rfl
@[simp] theorem respond_seqIdx (d : Word) (s : State) : (respond d s).seqIdx = s.seqIdx := rfl
@[simp] theorem respond_seqPeriod (d : Word) (s : State) : (respond d s).seqPeriod = s.seqPeriod := rfl
@[simp] theorem respond_seqMask (d : Word) (s : State) : (respond d s).seqMask = s.seqMask := rfl
@[simp] theorem respond_seqEnd (d : Word) (s : State) : (respond d s).seqEnd = s.seqEnd := rfl
@[simp] theorem respond_seqNext (d : Word) (s : State) : (respond d s).seqNext = s.seqNext := rfl
@[simp] theorem respond_faultSticky (d : Word) (s : State) : (respond d s).faultSticky = s.faultSticky := rfl
@[simp] theorem respond_cmdState (d : Word) (s : State) : (respond d s).cmdState = .idle := rfl
@[simp] theorem respond_rspStatus (d : Word) (s : State) : (respond d s).rspStatus = 0 := rfl
@[simp] theorem respond_rspData (d : Word) (s : State) : (respond d s).rspData = d := rfl
@[simp] theorem respond_rspValid (d : Word) (s : State) : (respond d s).rspValid = true := rfl
@[simp] theorem respond_cmdWord (d : Word) (s : State) : (respond d s).cmdWord = s.cmdWord := rfl
@[simp] theorem respond_cmdArg (d : Word) (s : State) : (respond d s).cmdArg = s.cmdArg := rfl
@[simp] theorem respond_cmdValid (d : Word) (s : State) : (respond d s).cmdValid = s.cmdValid := rfl
@[simp] theorem respond_resetIn (d : Word) (s : State) : (respond d s).resetIn = s.resetIn := rfl
@[simp] theorem respond_now (d : Word) (s : State) : (respond d s).now = s.now := rfl
@[simp] theorem respond_trace (d : Word) (s : State) : (respond d s).trace = s.trace := rfl
@[simp] theorem respond_draws (d : Word) (s : State) : (respond d s).draws = s.draws := rfl
@[simp] theorem respond_lane (d : Word) (s : State) : (respond d s).lane = s.lane := rfl
@[simp] theorem respond_cmdStream (d : Word) (s : State) : (respond d s).cmdStream = s.cmdStream := rfl
@[simp] theorem respond_resetStream (d : Word) (s : State) : (respond d s).resetStream = s.resetStream := rfl
@[simp] theorem respond_ax (d : Word) (s : State) (b : Nat) : (respond d s).ax b = s.ax b := rfl

/-! ### `raiseFault` -/

@[simp] theorem raiseFault_inst (c : Cause) (s : State) : (raiseFault c s).inst = s.inst := rfl
@[simp] theorem raiseFault_axes (c : Cause) (s : State) : (raiseFault c s).axes = s.axes := rfl
@[simp] theorem raiseFault_mem (c : Cause) (s : State) : (raiseFault c s).mem = s.mem := rfl
@[simp] theorem raiseFault_seqRun (c : Cause) (s : State) : (raiseFault c s).seqRun = s.seqRun := rfl
@[simp] theorem raiseFault_seqIdx (c : Cause) (s : State) : (raiseFault c s).seqIdx = s.seqIdx := rfl
@[simp] theorem raiseFault_seqPeriod (c : Cause) (s : State) : (raiseFault c s).seqPeriod = s.seqPeriod := rfl
@[simp] theorem raiseFault_seqMask (c : Cause) (s : State) : (raiseFault c s).seqMask = s.seqMask := rfl
@[simp] theorem raiseFault_seqEnd (c : Cause) (s : State) : (raiseFault c s).seqEnd = s.seqEnd := rfl
@[simp] theorem raiseFault_seqNext (c : Cause) (s : State) : (raiseFault c s).seqNext = s.seqNext := rfl
@[simp] theorem raiseFault_faultSticky (c : Cause) (s : State) : (raiseFault c s).faultSticky = stickyAfter s.faultSticky c.code := rfl
@[simp] theorem raiseFault_cmdState (c : Cause) (s : State) : (raiseFault c s).cmdState = .idle := rfl
@[simp] theorem raiseFault_rspStatus (c : Cause) (s : State) : (raiseFault c s).rspStatus = c.code := rfl
@[simp] theorem raiseFault_rspData (c : Cause) (s : State) : (raiseFault c s).rspData = 0 := rfl
@[simp] theorem raiseFault_rspValid (c : Cause) (s : State) : (raiseFault c s).rspValid = true := rfl
@[simp] theorem raiseFault_cmdWord (c : Cause) (s : State) : (raiseFault c s).cmdWord = s.cmdWord := rfl
@[simp] theorem raiseFault_cmdArg (c : Cause) (s : State) : (raiseFault c s).cmdArg = s.cmdArg := rfl
@[simp] theorem raiseFault_cmdValid (c : Cause) (s : State) : (raiseFault c s).cmdValid = s.cmdValid := rfl
@[simp] theorem raiseFault_resetIn (c : Cause) (s : State) : (raiseFault c s).resetIn = s.resetIn := rfl
@[simp] theorem raiseFault_now (c : Cause) (s : State) : (raiseFault c s).now = s.now := rfl
@[simp] theorem raiseFault_trace (c : Cause) (s : State) : (raiseFault c s).trace = s.trace := rfl
@[simp] theorem raiseFault_draws (c : Cause) (s : State) : (raiseFault c s).draws = s.draws := rfl
@[simp] theorem raiseFault_lane (c : Cause) (s : State) : (raiseFault c s).lane = s.lane := rfl
@[simp] theorem raiseFault_cmdStream (c : Cause) (s : State) : (raiseFault c s).cmdStream = s.cmdStream := rfl
@[simp] theorem raiseFault_resetStream (c : Cause) (s : State) : (raiseFault c s).resetStream = s.resetStream := rfl
@[simp] theorem raiseFault_ax (c : Cause) (s : State) (b : Nat) : (raiseFault c s).ax b = s.ax b := rfl

/-! ### `acceptCommand` -/

@[simp] theorem acceptCommand_inst (s : State) : (acceptCommand s).inst = s.inst := rfl
@[simp] theorem acceptCommand_axes (s : State) : (acceptCommand s).axes = s.axes := rfl
@[simp] theorem acceptCommand_mem (s : State) : (acceptCommand s).mem = s.mem := rfl
@[simp] theorem acceptCommand_seqRun (s : State) : (acceptCommand s).seqRun = s.seqRun := rfl
@[simp] theorem acceptCommand_seqIdx (s : State) : (acceptCommand s).seqIdx = s.seqIdx := rfl
@[simp] theorem acceptCommand_seqPeriod (s : State) : (acceptCommand s).seqPeriod = s.seqPeriod := rfl
@[simp] theorem acceptCommand_seqMask (s : State) : (acceptCommand s).seqMask = s.seqMask := rfl
@[simp] theorem acceptCommand_seqEnd (s : State) : (acceptCommand s).seqEnd = s.seqEnd := rfl
@[simp] theorem acceptCommand_seqNext (s : State) : (acceptCommand s).seqNext = s.seqNext := rfl
@[simp] theorem acceptCommand_faultSticky (s : State) : (acceptCommand s).faultSticky = s.faultSticky := rfl
@[simp] theorem acceptCommand_cmdState (s : State) : (acceptCommand s).cmdState = .busy := rfl
@[simp] theorem acceptCommand_rspStatus (s : State) : (acceptCommand s).rspStatus = s.rspStatus := rfl
@[simp] theorem acceptCommand_rspData (s : State) : (acceptCommand s).rspData = s.rspData := rfl
@[simp] theorem acceptCommand_rspValid (s : State) : (acceptCommand s).rspValid = false := rfl
@[simp] theorem acceptCommand_cmdWord (s : State) : (acceptCommand s).cmdWord = s.cmdWord := rfl
@[simp] theorem acceptCommand_cmdArg (s : State) : (acceptCommand s).cmdArg = s.cmdArg := rfl
@[simp] theorem acceptCommand_cmdValid (s : State) : (acceptCommand s).cmdValid = false := rfl
@[simp] theorem acceptCommand_resetIn (s : State) : (acceptCommand s).resetIn = s.resetIn := rfl
@[simp] theorem acceptCommand_now (s : State) : (acceptCommand s).now = s.now := rfl
@[simp] theorem acceptCommand_trace (s : State) : (acceptCommand s).trace = s.trace := rfl
@[simp] theorem acceptCommand_draws (s : State) : (acceptCommand s).draws = s.draws := rfl
@[simp] theorem acceptCommand_lane (s : State) : (acceptCommand s).lane = s.lane := rfl
@[simp] theorem acceptCommand_cmdStream (s : State) : (acceptCommand s).cmdStream = s.cmdStream := rfl
@[simp] theorem acceptCommand_resetStream (s : State) : (acceptCommand s).resetStream = s.resetStream := rfl
@[simp] theorem acceptCommand_ax (s : State) (b : Nat) : (acceptCommand s).ax b = s.ax b := rfl

/-! ### `seqStartEffect` -/

@[simp] theorem seqStartEffect_inst (mask : Word) (s : State) : (seqStartEffect mask s).inst = s.inst := rfl
@[simp] theorem seqStartEffect_axes (mask : Word) (s : State) : (seqStartEffect mask s).axes = s.axes := rfl
@[simp] theorem seqStartEffect_mem (mask : Word) (s : State) : (seqStartEffect mask s).mem = s.mem := rfl
@[simp] theorem seqStartEffect_seqRun (mask : Word) (s : State) : (seqStartEffect mask s).seqRun = true := rfl
@[simp] theorem seqStartEffect_seqIdx (mask : Word) (s : State) : (seqStartEffect mask s).seqIdx = 0 := rfl
@[simp] theorem seqStartEffect_seqPeriod (mask : Word) (s : State) : (seqStartEffect mask s).seqPeriod = s.seqPeriod := rfl
@[simp] theorem seqStartEffect_seqMask (mask : Word) (s : State) : (seqStartEffect mask s).seqMask = mask := rfl
@[simp] theorem seqStartEffect_seqEnd (mask : Word) (s : State) : (seqStartEffect mask s).seqEnd = BitVec.ofNat 16 (s.shortest (lanesOf s.inst.nAxes mask)) := rfl
@[simp] theorem seqStartEffect_seqNext (mask : Word) (s : State) : (seqStartEffect mask s).seqNext = some (s.now + (s.seqPeriod.toNat : Rat)) := rfl
@[simp] theorem seqStartEffect_faultSticky (mask : Word) (s : State) : (seqStartEffect mask s).faultSticky = s.faultSticky := rfl
@[simp] theorem seqStartEffect_cmdState (mask : Word) (s : State) : (seqStartEffect mask s).cmdState = s.cmdState := rfl
@[simp] theorem seqStartEffect_rspStatus (mask : Word) (s : State) : (seqStartEffect mask s).rspStatus = s.rspStatus := rfl
@[simp] theorem seqStartEffect_rspData (mask : Word) (s : State) : (seqStartEffect mask s).rspData = s.rspData := rfl
@[simp] theorem seqStartEffect_rspValid (mask : Word) (s : State) : (seqStartEffect mask s).rspValid = s.rspValid := rfl
@[simp] theorem seqStartEffect_cmdWord (mask : Word) (s : State) : (seqStartEffect mask s).cmdWord = s.cmdWord := rfl
@[simp] theorem seqStartEffect_cmdArg (mask : Word) (s : State) : (seqStartEffect mask s).cmdArg = s.cmdArg := rfl
@[simp] theorem seqStartEffect_cmdValid (mask : Word) (s : State) : (seqStartEffect mask s).cmdValid = s.cmdValid := rfl
@[simp] theorem seqStartEffect_resetIn (mask : Word) (s : State) : (seqStartEffect mask s).resetIn = s.resetIn := rfl
@[simp] theorem seqStartEffect_now (mask : Word) (s : State) : (seqStartEffect mask s).now = s.now := rfl
@[simp] theorem seqStartEffect_trace (mask : Word) (s : State) : (seqStartEffect mask s).trace = s.trace := rfl
@[simp] theorem seqStartEffect_draws (mask : Word) (s : State) : (seqStartEffect mask s).draws = s.draws := rfl
@[simp] theorem seqStartEffect_lane (mask : Word) (s : State) : (seqStartEffect mask s).lane = s.lane := rfl
@[simp] theorem seqStartEffect_cmdStream (mask : Word) (s : State) : (seqStartEffect mask s).cmdStream = s.cmdStream := rfl
@[simp] theorem seqStartEffect_resetStream (mask : Word) (s : State) : (seqStartEffect mask s).resetStream = s.resetStream := rfl
@[simp] theorem seqStartEffect_ax (mask : Word) (s : State) (b : Nat) : (seqStartEffect mask s).ax b = s.ax b := rfl

/-! ### `resetBlock` -/

@[simp] theorem resetBlock_inst (s : State) : (resetBlock s).inst = s.inst := rfl
@[simp] theorem resetBlock_axes (s : State) : (resetBlock s).axes = List.replicate s.inst.nAxes (Axis.reset s.inst) := rfl
@[simp] theorem resetBlock_mem (s : State) : (resetBlock s).mem = [] := rfl
@[simp] theorem resetBlock_seqRun (s : State) : (resetBlock s).seqRun = false := rfl
@[simp] theorem resetBlock_seqIdx (s : State) : (resetBlock s).seqIdx = 0 := rfl
@[simp] theorem resetBlock_seqPeriod (s : State) : (resetBlock s).seqPeriod = 0 := rfl
@[simp] theorem resetBlock_seqMask (s : State) : (resetBlock s).seqMask = 0 := rfl
@[simp] theorem resetBlock_seqEnd (s : State) : (resetBlock s).seqEnd = 0 := rfl
@[simp] theorem resetBlock_seqNext (s : State) : (resetBlock s).seqNext = none := rfl
@[simp] theorem resetBlock_faultSticky (s : State) : (resetBlock s).faultSticky = 0 := rfl
@[simp] theorem resetBlock_cmdState (s : State) : (resetBlock s).cmdState = .idle := rfl
@[simp] theorem resetBlock_rspStatus (s : State) : (resetBlock s).rspStatus = 0 := rfl
@[simp] theorem resetBlock_rspData (s : State) : (resetBlock s).rspData = 0 := rfl
@[simp] theorem resetBlock_rspValid (s : State) : (resetBlock s).rspValid = false := rfl
@[simp] theorem resetBlock_cmdWord (s : State) : (resetBlock s).cmdWord = s.cmdWord := rfl
@[simp] theorem resetBlock_cmdArg (s : State) : (resetBlock s).cmdArg = s.cmdArg := rfl
@[simp] theorem resetBlock_cmdValid (s : State) : (resetBlock s).cmdValid = s.cmdValid := rfl
@[simp] theorem resetBlock_resetIn (s : State) : (resetBlock s).resetIn = s.resetIn := rfl
@[simp] theorem resetBlock_now (s : State) : (resetBlock s).now = s.now := rfl
@[simp] theorem resetBlock_trace (s : State) : (resetBlock s).trace = s.trace ++ inFreeOrder s.draws (resetEvents s) := rfl
@[simp] theorem resetBlock_draws (s : State) : (resetBlock s).draws = s.draws + (resetEvents s).length := rfl
@[simp] theorem resetBlock_lane (s : State) : (resetBlock s).lane = 0 := rfl
@[simp] theorem resetBlock_cmdStream (s : State) : (resetBlock s).cmdStream = s.cmdStream := rfl
@[simp] theorem resetBlock_resetStream (s : State) : (resetBlock s).resetStream = s.resetStream := rfl

/-! ### `reorderTick` -/

@[simp] theorem reorderTick_inst (s t : State) : (reorderTick s t).inst = t.inst := rfl
@[simp] theorem reorderTick_axes (s t : State) : (reorderTick s t).axes = t.axes := rfl
@[simp] theorem reorderTick_mem (s t : State) : (reorderTick s t).mem = t.mem := rfl
@[simp] theorem reorderTick_seqRun (s t : State) : (reorderTick s t).seqRun = t.seqRun := rfl
@[simp] theorem reorderTick_seqIdx (s t : State) : (reorderTick s t).seqIdx = t.seqIdx := rfl
@[simp] theorem reorderTick_seqPeriod (s t : State) : (reorderTick s t).seqPeriod = t.seqPeriod := rfl
@[simp] theorem reorderTick_seqMask (s t : State) : (reorderTick s t).seqMask = t.seqMask := rfl
@[simp] theorem reorderTick_seqEnd (s t : State) : (reorderTick s t).seqEnd = t.seqEnd := rfl
@[simp] theorem reorderTick_seqNext (s t : State) : (reorderTick s t).seqNext = t.seqNext := rfl
@[simp] theorem reorderTick_faultSticky (s t : State) : (reorderTick s t).faultSticky = t.faultSticky := rfl
@[simp] theorem reorderTick_cmdState (s t : State) : (reorderTick s t).cmdState = t.cmdState := rfl
@[simp] theorem reorderTick_rspStatus (s t : State) : (reorderTick s t).rspStatus = t.rspStatus := rfl
@[simp] theorem reorderTick_rspData (s t : State) : (reorderTick s t).rspData = t.rspData := rfl
@[simp] theorem reorderTick_rspValid (s t : State) : (reorderTick s t).rspValid = t.rspValid := rfl
@[simp] theorem reorderTick_cmdWord (s t : State) : (reorderTick s t).cmdWord = t.cmdWord := rfl
@[simp] theorem reorderTick_cmdArg (s t : State) : (reorderTick s t).cmdArg = t.cmdArg := rfl
@[simp] theorem reorderTick_cmdValid (s t : State) : (reorderTick s t).cmdValid = t.cmdValid := rfl
@[simp] theorem reorderTick_resetIn (s t : State) : (reorderTick s t).resetIn = t.resetIn := rfl
@[simp] theorem reorderTick_now (s t : State) : (reorderTick s t).now = t.now := rfl
@[simp] theorem reorderTick_trace (s t : State) : (reorderTick s t).trace = s.trace ++ inFreeOrder t.draws (t.trace.drop s.trace.length) := rfl
@[simp] theorem reorderTick_draws (s t : State) : (reorderTick s t).draws = t.draws + (t.trace.drop s.trace.length).length := rfl
@[simp] theorem reorderTick_lane (s t : State) : (reorderTick s t).lane = s.lane := rfl
@[simp] theorem reorderTick_cmdStream (s t : State) : (reorderTick s t).cmdStream = t.cmdStream := rfl
@[simp] theorem reorderTick_resetStream (s t : State) : (reorderTick s t).resetStream = t.resetStream := rfl
@[simp] theorem reorderTick_ax (s t : State) (b : Nat) : (reorderTick s t).ax b = t.ax b := rfl

/-! ### `writeStep`: a static write reaches the step output only while no generator drives it (10_state R46) -/

@[simp] theorem writeStep_inst (a : Nat) (l : Bool) (s : State) : (writeStep a l s).inst = s.inst := by
  unfold writeStep; split <;> rfl
@[simp] theorem writeStep_mem (a : Nat) (l : Bool) (s : State) : (writeStep a l s).mem = s.mem := by
  unfold writeStep; split <;> rfl
@[simp] theorem writeStep_seqRun (a : Nat) (l : Bool) (s : State) : (writeStep a l s).seqRun = s.seqRun := by
  unfold writeStep; split <;> rfl
@[simp] theorem writeStep_seqIdx (a : Nat) (l : Bool) (s : State) : (writeStep a l s).seqIdx = s.seqIdx := by
  unfold writeStep; split <;> rfl
@[simp] theorem writeStep_seqPeriod (a : Nat) (l : Bool) (s : State) : (writeStep a l s).seqPeriod = s.seqPeriod := by
  unfold writeStep; split <;> rfl
@[simp] theorem writeStep_seqMask (a : Nat) (l : Bool) (s : State) : (writeStep a l s).seqMask = s.seqMask := by
  unfold writeStep; split <;> rfl
@[simp] theorem writeStep_seqEnd (a : Nat) (l : Bool) (s : State) : (writeStep a l s).seqEnd = s.seqEnd := by
  unfold writeStep; split <;> rfl
@[simp] theorem writeStep_seqNext (a : Nat) (l : Bool) (s : State) : (writeStep a l s).seqNext = s.seqNext := by
  unfold writeStep; split <;> rfl
@[simp] theorem writeStep_faultSticky (a : Nat) (l : Bool) (s : State) : (writeStep a l s).faultSticky = s.faultSticky := by
  unfold writeStep; split <;> rfl
@[simp] theorem writeStep_cmdState (a : Nat) (l : Bool) (s : State) : (writeStep a l s).cmdState = s.cmdState := by
  unfold writeStep; split <;> rfl
@[simp] theorem writeStep_rspStatus (a : Nat) (l : Bool) (s : State) : (writeStep a l s).rspStatus = s.rspStatus := by
  unfold writeStep; split <;> rfl
@[simp] theorem writeStep_rspData (a : Nat) (l : Bool) (s : State) : (writeStep a l s).rspData = s.rspData := by
  unfold writeStep; split <;> rfl
@[simp] theorem writeStep_rspValid (a : Nat) (l : Bool) (s : State) : (writeStep a l s).rspValid = s.rspValid := by
  unfold writeStep; split <;> rfl
@[simp] theorem writeStep_cmdWord (a : Nat) (l : Bool) (s : State) : (writeStep a l s).cmdWord = s.cmdWord := by
  unfold writeStep; split <;> rfl
@[simp] theorem writeStep_cmdArg (a : Nat) (l : Bool) (s : State) : (writeStep a l s).cmdArg = s.cmdArg := by
  unfold writeStep; split <;> rfl
@[simp] theorem writeStep_cmdValid (a : Nat) (l : Bool) (s : State) : (writeStep a l s).cmdValid = s.cmdValid := by
  unfold writeStep; split <;> rfl
@[simp] theorem writeStep_resetIn (a : Nat) (l : Bool) (s : State) : (writeStep a l s).resetIn = s.resetIn := by
  unfold writeStep; split <;> rfl
@[simp] theorem writeStep_now (a : Nat) (l : Bool) (s : State) : (writeStep a l s).now = s.now := by
  unfold writeStep; split <;> rfl
@[simp] theorem writeStep_draws (a : Nat) (l : Bool) (s : State) : (writeStep a l s).draws = s.draws := by
  unfold writeStep; split <;> rfl
@[simp] theorem writeStep_lane (a : Nat) (l : Bool) (s : State) : (writeStep a l s).lane = s.lane := by
  unfold writeStep; split <;> rfl
@[simp] theorem writeStep_cmdStream (a : Nat) (l : Bool) (s : State) : (writeStep a l s).cmdStream = s.cmdStream := by
  unfold writeStep; split <;> rfl
@[simp] theorem writeStep_resetStream (a : Nat) (l : Bool) (s : State) : (writeStep a l s).resetStream = s.resetStream := by
  unfold writeStep; split <;> rfl

theorem writeStep_eq_driveStep {a : Nat} {s : State} (h : (s.ax a).cont = false) (l : Bool) :
    writeStep a l s = driveStep a l s := by simp [writeStep, h]

theorem writeStep_eq_self {a : Nat} {s : State} (h : (s.ax a).cont = true) (l : Bool) :
    writeStep a l s = s := by simp [writeStep, h]

/-! ### What an update makes of an axis -/

/-- The one lemma about `modAx` and the axes: the rest follow from it. -/
theorem ax_modAx (a : Nat) (f : Axis → Axis) (s : State) (b : Nat) :
    (modAx a f s).ax b = if b = a ∧ a < s.axes.length then f (s.ax a) else s.ax b := by
  unfold State.ax modAx
  simp only [List.getD_eq_getElem?_getD, List.getElem?_modify]
  by_cases hb : b = a
  · subst hb
    by_cases hl : b < s.axes.length
    · simp [hl]
    · simp [hl]
  · simp [hb, Ne.symm hb]

theorem ax_modAx_self {a : Nat} {s : State} (h : a < s.axes.length) (f : Axis → Axis) :
    (modAx a f s).ax a = f (s.ax a) := by simp [ax_modAx, h]

theorem ax_modAx_ne {a b : Nat} (h : b ≠ a) (f : Axis → Axis) (s : State) :
    (modAx a f s).ax b = s.ax b := by simp [ax_modAx, h]

@[simp] theorem modAx_axes_length (a : Nat) (f : Axis → Axis) (s : State) :
    (modAx a f s).axes.length = s.axes.length := by simp

/-- Two updates of one axis are one. -/
theorem modAx_modAx (a : Nat) (f g : Axis → Axis) (s : State) :
    modAx a f (modAx a g s) = modAx a (fun x => f (g x)) s := by
  simp only [modAx, List.modify_modify_eq]
  rfl

theorem ax_driveStep (a : Nat) (l : Bool) (s : State) (b : Nat) :
    (driveStep a l s).ax b = (modAx a (fun x => { x with stepPin := l }) s).ax b := rfl

theorem ax_writeDir (a : Nat) (l : Bool) (s : State) (b : Nat) :
    (writeDir a l s).ax b = (modAx a (fun x => { x with dirPin := l }) s).ax b := rfl

theorem ax_writeEn (a : Nat) (l : Bool) (s : State) (b : Nat) :
    (writeEn a l s).ax b = (modAx a (fun x => { x with enPin := l }) s).ax b := rfl

theorem ax_storeWidth (a : Nat) (q : Rat) (s : State) (b : Nat) :
    (storeWidth a q s).ax b = (modAx a (fun x => { x with
      pw := clampPw q
      contPw := if s.inst.livePwmUpdate && x.cont then clampPw q else x.contPw }) s).ax b := rfl

theorem ax_setRef (a : Nat) (r : Rat) (s : State) (b : Nat) :
    (setRef a r s).ax b = (modAx a (fun x => { x with ref := r }) s).ax b := rfl

theorem ax_updateRef (a : Nat) (s : State) (b : Nat) :
    (updateRef a s).ax b = (modAx a (fun x => { x with ref := refAfterStep (s.ratio a) (s.ax a).dir (s.ax a).ref }) s).ax b := rfl

theorem ax_startSwing (a ms : Nat) (s : State) (b : Nat) :
    (startSwing a ms s).ax b = (modAx a (fun x => { x with
      swing := true
      swingMs := ms
      swingNext := some (s.now + 1000 * (ms : Rat)) }) s).ax b := rfl

theorem ax_cancelSwing (a : Nat) (s : State) (b : Nat) :
    (cancelSwing a s).ax b = (modAx a (fun x => { x with swing := false }) s).ax b := rfl

@[simp] theorem driveStep_axes_length (a : Nat) (l : Bool) (s : State) : (driveStep a l s).axes.length = s.axes.length := by
  simp [driveStep]

@[simp] theorem writeDir_axes_length (a : Nat) (l : Bool) (s : State) : (writeDir a l s).axes.length = s.axes.length := by
  simp [writeDir]

@[simp] theorem writeEn_axes_length (a : Nat) (l : Bool) (s : State) : (writeEn a l s).axes.length = s.axes.length := by
  simp [writeEn]

@[simp] theorem storeWidth_axes_length (a : Nat) (q : Rat) (s : State) : (storeWidth a q s).axes.length = s.axes.length := by
  simp [storeWidth]

@[simp] theorem setRef_axes_length (a : Nat) (r : Rat) (s : State) : (setRef a r s).axes.length = s.axes.length := by
  simp [setRef]

@[simp] theorem updateRef_axes_length (a : Nat) (s : State) : (updateRef a s).axes.length = s.axes.length := by
  simp [updateRef, setRef]

@[simp] theorem startSwing_axes_length (a ms : Nat) (s : State) : (startSwing a ms s).axes.length = s.axes.length := by
  simp [startSwing]

@[simp] theorem cancelSwing_axes_length (a : Nat) (s : State) : (cancelSwing a s).axes.length = s.axes.length := by
  simp [cancelSwing]

@[simp] theorem setDir_axes_length (a : Nat) (d : Dir) (s : State) : (setDir a d s).axes.length = s.axes.length := by
  simp [setDir, writeDir]

@[simp] theorem setEnable_axes_length (a : Nat) (e : Bool) (s : State) : (setEnable a e s).axes.length = s.axes.length := by
  simp [setEnable, writeEn]

@[simp] theorem startGenerator_axes_length (a : Nat) (s : State) : (startGenerator a s).axes.length = s.axes.length := by
  simp [startGenerator, driveStep]

@[simp] theorem stopGenerator_axes_length (a : Nat) (s : State) : (stopGenerator a s).axes.length = s.axes.length := by
  simp [stopGenerator, driveStep]

@[simp] theorem swingToggle_axes_length (a : Nat) (t : Time) (s : State) : (swingToggle a t s).axes.length = s.axes.length := by
  simp [swingToggle, setDir, writeDir]

@[simp] theorem pwmEdge_axes_length (a : Nat) (t : Time) (s : State) : (pwmEdge a t s).axes.length = s.axes.length := by
  simp [pwmEdge, driveStep]

theorem ax_setDir (a : Nat) (d : Dir) (s : State) (b : Nat) :
    (setDir a d s).ax b = (modAx a (fun x => { x with dir := d, dirPin := lvlDir s.inst d }) s).ax b := by
  change (modAx a (fun x => { x with dirPin := lvlDir s.inst d }) (modAx a (fun x => { x with dir := d }) s)).ax b = _
  rw [modAx_modAx]

theorem ax_setEnable (a : Nat) (e : Bool) (s : State) (b : Nat) :
    (setEnable a e s).ax b = (modAx a (fun x => { x with en := e, enPin := lvlEn s.inst e }) s).ax b := by
  change (modAx a (fun x => { x with enPin := lvlEn s.inst e }) (modAx a (fun x => { x with en := e }) s)).ax b = _
  rw [modAx_modAx]

theorem ax_startGenerator (a : Nat) (s : State) (b : Nat) :
    (startGenerator a s).ax b = (modAx a (fun x => { x with
      contPw := x.pw
      cont := true
      stepPin := Config.freeLevel s.draws
      pwm := some ⟨s.now, some (firstWait (Config.freePhase s.draws) x.pw)⟩ }) s).ax b := by
  change (modAx a (fun x => { x with stepPin := Config.freeLevel s.draws }) (modAx a (fun x => { x with
      contPw := x.pw
      cont := true
      pwm := some ⟨s.now, some (firstWait (Config.freePhase s.draws) x.pw)⟩ }) s)).ax b = _
  rw [modAx_modAx]

theorem ax_stopGenerator (a : Nat) (s : State) (b : Nat) :
    (stopGenerator a s).ax b = (modAx a (fun x => { x with
      cont := false
      pwm := none
      stepPin := false
      swing := x.swing && !s.inst.stopContCancelsSwing }) s).ax b := by
  change (modAx a (fun x => { x with stepPin := false }) (modAx a (fun x => { x with
      cont := false
      pwm := none
      swing := x.swing && !s.inst.stopContCancelsSwing }) s)).ax b = _
  rw [modAx_modAx]

theorem ax_swingToggle (a : Nat) (t : Time) (s : State) (b : Nat) :
    (swingToggle a t s).ax b = (modAx a (fun x => { x with
      dir := (s.ax a).dir.flip
      dirPin := lvlDir s.inst (s.ax a).dir.flip
      swingNext := some (t + 1000 * (x.swingMs : Rat)) }) s).ax b := by
  rw [swingToggle, ax_modAx, setDir_axes_length, ax_setDir, ax_setDir, ax_modAx, ax_modAx, ax_modAx]
  by_cases hb : b = a <;> by_cases hl : a < s.axes.length <;> simp [hb, hl]

theorem ax_pwmEdge (a : Nat) (t : Time) (s : State) (b : Nat) :
    (pwmEdge a t s).ax b = (modAx a (fun x => { x with stepPin := !(s.ax a).stepPin, pwm := some ⟨t, halfPeriod x.contPw⟩ }) s).ax b := by
  change (modAx a (fun x => { x with stepPin := !(s.ax a).stepPin }) (modAx a (fun x => { x with pwm := some ⟨t, halfPeriod x.contPw⟩ }) s)).ax b = _
  rw [modAx_modAx]

@[simp] theorem writeStep_axes_length (a : Nat) (l : Bool) (s : State) :
    (writeStep a l s).axes.length = s.axes.length := by
  unfold writeStep; split <;> simp

end Sys2Proof.Machine
end

