-- ==== Sys2Proof/Laws/Ops.lean ====
section
/-! SUPPORT. What each shared operation can do, said once: the sequence memory, the shape of a command, the playing of entries, the free order, and the choice of a step. -/

namespace Sys2Proof.Machine

/-! ### Sequence memory -/

/-- What was written is read back. -/
theorem memRead_memWrite_self (m : List Host.Cell) (k : Nat) (v : Byte) :
    memRead (memWrite m k v) k = some v := by
  induction m with
  | nil => simp [memWrite, memRead]
  | cons c m ih =>
    obtain ⟨k', b⟩ := c
    simp only [memWrite]
    split
    · simp [memRead]
    · split
      · simp [memRead]
      · rename_i hne
        simp [memRead, Ne.symm hne, ih]

/-- Every other place reads as before. -/
theorem memRead_memWrite_ne (m : List Host.Cell) {k x : Nat} (h : x ≠ k) (v : Byte) :
    memRead (memWrite m k v) x = memRead m x := by
  induction m with
  | nil => simp [memWrite, memRead, Ne.symm h]
  | cons c m ih =>
    obtain ⟨k', b⟩ := c
    simp only [memWrite]
    split
    · simp [memRead, Ne.symm h]
    · split
      · rename_i heq
        subst heq
        simp [memRead, Ne.symm h]
      · simp [memRead, ih]

theorem memWrite_risesAbove {m : List Host.Cell} {low k : Nat} {v : Byte} (hk : low < k)
    (h : Memory.risesAbove low m = true) : Memory.risesAbove low (memWrite m k v) = true := by
  induction m generalizing low with
  | nil => simp [memWrite, Memory.risesAbove, hk]
  | cons c m ih =>
    obtain ⟨k', b⟩ := c
    simp only [Memory.risesAbove, Bool.and_eq_true, decide_eq_true_eq] at h
    simp only [memWrite]
    split
    · rename_i hlt
      simp [Memory.risesAbove, hk, hlt, h.2]
    · split
      · rename_i heq
        subst heq
        simp [Memory.risesAbove, hk, h.2]
      · rename_i hle hne
        have hgt : k' < k := by omega
        simp [Memory.risesAbove, h.1, ih hgt h.2]

/-- A cell after a write is the written one or one from before. -/
theorem mem_memWrite {m : List Host.Cell} {k : Nat} {v : Byte} {c : Host.Cell}
    (h : c ∈ memWrite m k v) : c = (k, v) ∨ c ∈ m := by
  induction m with
  | nil => simpa [memWrite] using h
  | cons d m ih =>
    obtain ⟨k', b⟩ := d
    simp only [memWrite] at h
    split at h
    · simpa using h
    · split at h
      · rcases List.mem_cons.mp h with h | h
        · exact .inl h
        · exact .inr (List.mem_cons_of_mem _ h)
      · rcases List.mem_cons.mp h with h | h
        · exact .inr (h ▸ List.mem_cons_self)
        · exact (ih h).imp_right (List.mem_cons_of_mem _)

theorem memWrite_holdsEntries {m : List Host.Cell} {k : Nat} {v : Byte}
    (hv : (entryOfByte v).isSome = true) (h : Memory.holdsEntries m = true) :
    Memory.holdsEntries (memWrite m k v) = true := by
  rw [Memory.holdsEntries, List.all_eq_true] at h ⊢
  intro c hc
  rcases mem_memWrite hc with rfl | hc
  · exact hv
  · exact h c hc

/-- Every stored cell of a PulseCommand decodes to it. -/
@[simp] theorem entryOfByte_byteOfEntry (e : Entry) : entryOfByte (byteOfEntry e) = some e := by
  obtain ⟨p, d⟩ := e
  cases p <;> cases d <;> decide

/-- A write of an entry keeps the canonical form of the memory. -/
theorem memWrite_wf {m : List Host.Cell} (h : Memory.wf m = true) (k : Nat) (e : Entry) :
    Memory.wf (memWrite m k (byteOfEntry e)) = true := by
  cases m with
  | nil => simp [memWrite, Memory.wf, Memory.risesAbove, Memory.holdsEntries]
  | cons c m =>
    obtain ⟨k', b⟩ := c
    simp only [Memory.wf, Bool.and_eq_true] at h
    have he := memWrite_holdsEntries (k := k) (v := byteOfEntry e) (by simp) h.2
    simp only [memWrite] at he ⊢
    split
    · rename_i hlt
      simp only [hlt, if_true] at he
      simp [Memory.wf, he, Memory.risesAbove, hlt, h.1]
    · split
      · rename_i hnlt heq
        subst heq
        simp only [lt_irrefl, if_true, if_false] at he
        simp [Memory.wf, he, h.1]
      · rename_i hnlt hne
        simp only [hnlt, hne, if_false] at he
        have hgt : k' < k := by omega
        simp [Memory.wf, he, memWrite_risesAbove hgt h.1]

/-- The memory of the reset state has the canonical form. -/
theorem reset_mem_wf (p : Config.Params) : Memory.wf (State.resetOf p).mem = true := rfl

/-- `seqStore` keeps the canonical form. -/
theorem seqStore_wf {s : State} (h : Memory.wf s.mem = true) (a i : Nat) (e : Entry) :
    Memory.wf (seqStore a i e s).mem = true := memWrite_wf h _ e

/-- A reset leaves the memory in canonical form. -/
theorem resetBlock_wf (s : State) : Memory.wf (resetBlock s).mem = true := rfl

/-- Places of different entries differ: an index has 16 bits. -/
theorem cellOf_inj {a b i j : Nat} (hi : i < 65536) (hj : j < 65536)
    (h : cellOf a i = cellOf b j) : a = b ∧ i = j := by
  unfold cellOf at h; omega

theorem seqRead_seqStore_self (a i : Nat) (e : Entry) (s : State) :
    (seqStore a i e s).seqRead a i = some e := by
  simp [State.seqRead, memRead_memWrite_self]

theorem seqRead_seqStore_ne {a i b j : Nat} (h : cellOf b j ≠ cellOf a i) (e : Entry) (s : State) :
    (seqStore a i e s).seqRead b j = s.seqRead b j := by
  simp [State.seqRead, memRead_memWrite_ne _ h]

/-! ### The shape of a command -/

theorem firstFault_eq_none {checks : List (Bool × Cause)} :
    firstFault checks = none ↔ ∀ c ∈ checks, c.1 = false := by
  induction checks with
  | nil => simp [firstFault]
  | cons c rest ih =>
    obtain ⟨b, k⟩ := c
    cases b <;> simp [firstFault, ih]

/-- All a command can do: it faults with the cause of a failing check, or has its effect when none fails. -/
theorem command_cases (s : State) (checks : List (Bool × Cause)) (effect : State) :
    (∃ c, firstFault checks = some c ∧ (true, c) ∈ checks
        ∧ command s checks effect = .next (raiseFault c s))
      ∨ ((∀ c ∈ checks, c.1 = false) ∧ command s checks effect = .next effect) := by
  unfold command
  cases h : firstFault checks with
  | none => exact .inr ⟨firstFault_eq_none.mp h, rfl⟩
  | some c =>
    refine .inl ⟨c, rfl, ?_, rfl⟩
    induction checks with
    | nil => simp [firstFault] at h
    | cons d rest ih =>
      obtain ⟨b, k⟩ := d
      cases b
      · exact List.mem_cons_of_mem _ (ih (by simpa [firstFault] using h))
      · simp only [firstFault, if_true, Option.some.injEq] at h
        exact h ▸ List.mem_cons_self

/-- A command whose checks all pass has its effect. -/
theorem command_passes {s : State} {checks : List (Bool × Cause)} {effect : State}
    (h : ∀ c ∈ checks, c.1 = false) : command s checks effect = .next effect := by
  simp [command, firstFault_eq_none.mpr h]

/-- A command whose first failing check has cause `c` faults with it. -/
theorem command_faults {s : State} {before after : List (Bool × Cause)} {c : Cause} {effect : State}
    (h : ∀ d ∈ before, d.1 = false) :
    command s (before ++ (true, c) :: after) effect = .next (raiseFault c s) := by
  have : firstFault (before ++ (true, c) :: after) = some c := by
    induction before with
    | nil => simp [firstFault]
    | cons d rest ih =>
      have hd : d.1 = false := h d List.mem_cons_self
      obtain ⟨b, k⟩ := d
      simp only [List.cons_append, firstFault]
      simp only at hd
      simpa [hd] using ih fun e he => h e (List.mem_cons_of_mem _ he)
  simp [command, this]

/-! ### Axes in a mask -/

@[simp] theorem mem_lanesOf {n : Nat} {mask : Word} {a : Nat} :
    a ∈ lanesOf n mask ↔ a < n ∧ mask.getLsbD a = true := by
  simp [lanesOf]

theorem nodup_lanesOf (n : Nat) (mask : Word) : (lanesOf n mask).Nodup :=
  List.nodup_range.filter _

/-- A mask whose bits all name axes. -/
theorem maskNamesNoAxis_eq_false {n : Nat} {mask : Word} :
    maskNamesNoAxis n mask = false ↔ ∀ a, n ≤ a → mask.getLsbD a = false := by
  simp only [maskNamesNoAxis, ne_eq, decide_eq_false_iff_not, not_not]
  constructor
  · intro h a ha
    have := congrArg (fun v : Word => v.getLsbD (a - n)) h
    simpa [Nat.add_sub_cancel' ha] using this
  · intro h
    apply BitVec.eq_of_getLsbD_eq
    intro i _
    simpa using h (n + i) (by omega)

/-- The shortest length is a bound, and one of the lengths. -/
theorem shortest_le (s : State) {lanes : List Nat} {a : Nat} (h : a ∈ lanes) :
    s.shortest lanes ≤ (s.ax a).seqLen := by
  induction lanes with
  | nil => simp at h
  | cons b rest ih =>
    cases rest with
    | nil => simp_all [State.shortest]
    | cons c rest =>
      simp only [State.shortest]
      rcases List.mem_cons.mp h with rfl | h
      · exact min_le_left _ _
      · exact le_trans (min_le_right _ _) (ih h)

theorem shortest_mem (s : State) {lanes : List Nat} (h : lanes ≠ []) :
    ∃ a ∈ lanes, s.shortest lanes = (s.ax a).seqLen := by
  induction lanes with
  | nil => exact absurd rfl h
  | cons b rest ih =>
    cases rest with
    | nil => exact ⟨b, by simp, rfl⟩
    | cons c rest =>
      obtain ⟨a, ha, hs⟩ := ih (by simp)
      by_cases hle : (s.ax b).seqLen ≤ s.shortest (c :: rest)
      · exact ⟨b, by simp, by simp [State.shortest, hle]⟩
      · refine ⟨a, List.mem_cons_of_mem _ ha, ?_⟩
        simp only [State.shortest, ← hs]
        exact min_eq_right (by omega)

/-! ### Entries -/

/-- The meaning of an entry kind is the pin writes of its PulseCommand, on the lane. -/
theorem exec_toInstr (e : Entry) (s : State) : exec e.toInstr s = .next (playEntry s.lane e s) := by
  obtain ⟨p, d⟩ := e
  cases p <;> cases d <;> rfl

/-- Every fetched instruction is an entry kind. -/
theorem fetchEntry_eq_toInstr (s : State) (a : Nat) : ∃ e : Entry, s.fetchEntry a = e.toInstr := by
  unfold State.fetchEntry
  split <;> exact ⟨_, rfl⟩

/-- Playing lanes always completes. -/
theorem playLanes_next (lanes : List Nat) (s : State) : ∃ t, playLanes lanes s = .next t := by
  induction lanes generalizing s with
  | nil => exact ⟨s, rfl⟩
  | cons a rest ih =>
    obtain ⟨e, he⟩ := fetchEntry_eq_toInstr s a
    obtain ⟨t, ht⟩ := ih (playEntry a e { s with lane := a })
    exact ⟨t, by simp only [playLanes, he, exec_toInstr]; exact ht⟩

theorem insertAt_perm {α : Type} (n : Nat) (x : α) (l : List α) : (insertAt n x l).Perm (x :: l) := by
  induction l generalizing n with
  | nil => cases n <;> simp [insertAt]
  | cons y l ih =>
    cases n with
    | zero => simp [insertAt]
    | succ n => exact ((ih n).cons y).trans (List.Perm.swap x y l)

/-- The free order only reorders. -/
theorem inFreeOrder_perm {α : Type} (k : Nat) (l : List α) : (inFreeOrder k l).Perm l := by
  induction l generalizing k with
  | nil => simp [inFreeOrder]
  | cons x l ih => exact (insertAt_perm _ x _).trans ((ih (k + 1)).cons x)

/-- A reset records its pin events, in some order. -/
theorem resetBlock_trace_perm (s : State) :
    ∃ events, (resetBlock s).trace = s.trace ++ events ∧ events.Perm (resetEvents s) :=
  ⟨_, rfl, inFreeOrder_perm _ _⟩

/-! ### Time and the choice of a step -/

@[simp] theorem reached_eq_true {t now : Time} : reached t now = true ↔ t ≤ now := by
  simp only [reached, Bool.or_eq_true, decide_eq_true_eq]
  exact le_iff_eq_or_lt.symm

theorem earliest_eq_none {l : List Time} : earliest l = none ↔ l = [] := by
  cases l with
  | nil => simp [earliest]
  | cons t l => simp only [earliest]; split <;> simp

/-- The earliest time is a lower bound. -/
theorem earliest_le {l : List Time} {t u : Time} (h : earliest l = some t) (hu : u ∈ l) : t ≤ u := by
  induction l generalizing t with
  | nil => simp at hu
  | cons x l ih =>
    simp only [earliest] at h
    cases hl : earliest l with
    | none =>
      rw [hl] at h
      simp only [Option.some.injEq] at h
      rw [earliest_eq_none.mp hl, List.mem_singleton] at hu
      exact le_of_eq (by rw [hu, h])
    | some v =>
      rw [hl] at h
      simp only [Option.some.injEq] at h
      rcases List.mem_cons.mp hu with rfl | hu
      · subst h; split
        · exact le_refl _
        · exact le_of_lt (not_le.mp ‹_›)
      · have := ih hl hu
        subst h; split
        · exact le_trans ‹_› this
        · exact this

/-- The generator's first edge comes after its start, within one half-period (42_continuous_swing R175). -/
theorem firstWait_pos (p : Nat × Nat) {w : Nat} (h : 1 ≤ w) : 0 < firstWait p w := by
  unfold firstWait
  have hw : (0 : Rat) < (w : Rat) := by exact_mod_cast h
  positivity

theorem firstWait_le (p : Nat × Nat) (w : Nat) : firstWait p w ≤ (w : Rat) := by
  unfold firstWait
  have hd : (0 : Rat) < ((p.2 + 1 : Nat) : Rat) := by positivity
  have hn : ((p.1 % (p.2 + 1) + 1 : Nat) : Rat) ≤ ((p.2 + 1 : Nat) : Rat) := by
    have := Nat.mod_lt p.1 (show p.2 + 1 > 0 by omega)
    exact_mod_cast (by omega : p.1 % (p.2 + 1) + 1 ≤ p.2 + 1)
  have h1 : ((p.1 % (p.2 + 1) + 1 : Nat) : Rat) / ((p.2 + 1 : Nat) : Rat) ≤ 1 := by
    rw [div_le_one hd]; exact hn
  exact mul_le_of_le_one_left (by positivity) h1

/-- Where `PWM_FREQ_QUANT` is exact, a half-period is the latched width (42_continuous_swing R174). -/
theorem halfPeriod_of_exact {w : Nat} (hw : 1 ≤ w)
    (h : Config.pwmFreqQuant (nominalFreq w) = nominalFreq w) : halfPeriod w = some (w : Rat) := by
  have hw' : (0 : Rat) < (w : Rat) := by exact_mod_cast hw
  have hf : actualFreq w = 500000 / (w : Rat) := h
  have hpos : 0 < actualFreq w := by rw [hf]; positivity
  rw [halfPeriod, if_pos hpos, hf, div_div_cancel₀ (by norm_num)]

/-- All a half-period can be: positive, half the period of the actual frequency. -/
theorem halfPeriod_eq_some {w : Nat} {h : Rat} (hh : halfPeriod w = some h) :
    0 < h ∧ 0 < actualFreq w ∧ 2 * h * actualFreq w = 1000000 := by
  unfold halfPeriod at hh
  split at hh
  · rename_i hpos
    rw [Option.some.injEq] at hh
    subst hh
    exact ⟨by positivity, hpos, by field_simp; norm_num⟩
  · cases hh

/-- A due agent is one of the machine's, has a step to take, and its time has come. -/
theorem mem_due {s : State} {g : Agent} (h : g ∈ s.due) :
    g ∈ s.agents ∧ ∃ t, s.agentTime g = some t ∧ t ≤ s.now := by
  simp only [State.due, List.mem_filter] at h
  refine ⟨h.1, ?_⟩
  have h2 := h.2
  simp only [State.isDue, Bool.and_eq_true] at h2
  cases ht : s.agentTime g with
  | none => simp [ht] at h2
  | some t => exact ⟨t, rfl, by simpa [ht] using h2.2⟩

/-- All a step can do: one due agent acts, or time passes. -/
theorem step_cases {s t : State} (h : step s = .next t) :
    (∃ g ∈ (holdReset s).due, ∃ k, perform g { holdReset s with draws := k } = .next t)
      ∨ ((holdReset s).due = [] ∧ t = passTime (holdReset s)) := by
  simp only [step, nextStep] at h
  cases hd : (holdReset s).due with
  | nil => simp [hd] at h; exact .inr ⟨rfl, h.symm⟩
  | cons g l =>
    left
    rw [hd] at h
    cases l with
    | nil => exact ⟨g, List.mem_cons_self, (holdReset s).draws, h⟩
    | cons g' rest =>
      refine ⟨_, ?_, _, h⟩
      have hlt : Config.freeChoice (holdReset s).draws % (rest.length + 2) < (g :: g' :: rest).length :=
        Nat.mod_lt _ (by simp)
      rw [List.getD_eq_getElem _ _ hlt]
      exact List.getElem_mem hlt

end Sys2Proof.Machine
end

