-- ==== Sys2Proof/Laws/PerInstr.lean ====
section
/-! SUPPORT. What holds of every instruction as syntax: its encoding matches its row of the opcode table. -/

namespace Sys2Proof.Laws.MatchesRow

/-- The `match` of the instruction's row in the opcode table (30_encoding R97, R104). -/
def rowMatch : Instr → Nat
  | .enable _ => 0x01
  | .disable _ => 0x02
  | .setDirection _ _ _ => 0x03
  | .setReference _ _ => 0x04
  | .goAbs _ _ => 0x05
  | .goRel _ _ => 0x06
  | .setSpeedPw _ _ => 0x07
  | .setSpeedRps _ _ => 0x08
  | .setSpeedSps _ _ => 0x09
  | .setSpeedRpm _ _ => 0x0A
  | .contStart _ => 0x0B
  | .contStop _ => 0x0C
  | .swingStart _ _ => 0x0D
  | .swingStop _ => 0x0E
  | .seqWrite _ _ _ _ => 0x10
  | .seqSetLen _ _ => 0x11
  | .seqSetPeriod _ _ => 0x12
  | .seqStart _ _ => 0x13
  | .readReg _ _ _ => 0x20
  | .stepLoFwd => 0x00
  | .stepHiFwd => 0x01
  | .stepLoRev => 0x02
  | .stepHiRev => 0x03

/-- Under the mask of its row, the first word of the encoding is the row's match: `0xFFFF00FF` for a command, which
leaves the axis field free, and `0x3` for an entry, whose cell has no bit above the mask (30_encoding R91, R95). -/
def Statement (i : Instr) : Prop :=
  match encode i with
  | .command word _ => i.isEntry = false ∧ word &&& 0xFFFF00FF#32 = BitVec.ofNat 32 (rowMatch i)
  | .entry bits => i.isEntry = true ∧ bits &&& 0x03#8 = bits ∧ bits = BitVec.ofNat 8 (rowMatch i)

/-- The mask of a command's row keeps the opcode and drops the axis. -/
theorem commandWord_masked (op axis : Byte) :
    commandWord op axis &&& 0xFFFF00FF#32 = op.setWidth 32 := by
  have h : ∀ a : Byte, (0#16 ++ a ++ 0#8 : Word) &&& 0xFFFF00FF#32 = 0 := by decide +kernel
  have e : commandWord op axis = (0#16 ++ axis ++ 0#8 : Word) ||| op.setWidth 32 := by
    apply BitVec.eq_of_getLsbD_eq
    intro i hi
    by_cases h8 : i < 8
    · simp only [commandWord, BitVec.getLsbD_or, BitVec.getLsbD_append, BitVec.getLsbD_setWidth, h8, hi]
      simp
    · simp only [commandWord, BitVec.getLsbD_or, BitVec.getLsbD_append, BitVec.getLsbD_setWidth, h8, hi,
        BitVec.getLsbD_of_ge op i (by omega)]
      simp
  have k : ∀ o : Byte, o.setWidth 32 &&& 0xFFFF00FF#32 = o.setWidth 32 := by decide +kernel
  rw [e, BitVec.and_comm, BitVec.and_or_distrib_left, BitVec.and_comm _ (0#16 ++ axis ++ 0#8 : Word), h,
    BitVec.and_comm, k]
  simp

theorem enable (axis : Byte) : Statement (.enable axis) :=
  ⟨rfl, commandWord_masked _ _⟩

theorem disable (axis : Byte) : Statement (.disable axis) :=
  ⟨rfl, commandWord_masked _ _⟩

theorem setDirection (axis : Byte) (dir : Dir) (rsv : BitVec 31) : Statement (.setDirection axis dir rsv) :=
  ⟨rfl, commandWord_masked _ _⟩

theorem setReference (axis : Byte) (mdeg : Int) : Statement (.setReference axis mdeg) :=
  ⟨rfl, commandWord_masked _ _⟩

theorem goAbs (axis : Byte) (mdeg : Int) : Statement (.goAbs axis mdeg) :=
  ⟨rfl, commandWord_masked _ _⟩

theorem goRel (axis : Byte) (mdeg : Int) : Statement (.goRel axis mdeg) :=
  ⟨rfl, commandWord_masked _ _⟩

theorem setSpeedPw (axis : Byte) (width : Int) : Statement (.setSpeedPw axis width) :=
  ⟨rfl, commandWord_masked _ _⟩

theorem setSpeedRps (axis : Byte) (rate : Int) : Statement (.setSpeedRps axis rate) :=
  ⟨rfl, commandWord_masked _ _⟩

theorem setSpeedSps (axis : Byte) (rate : Int) : Statement (.setSpeedSps axis rate) :=
  ⟨rfl, commandWord_masked _ _⟩

theorem setSpeedRpm (axis : Byte) (rate : Int) : Statement (.setSpeedRpm axis rate) :=
  ⟨rfl, commandWord_masked _ _⟩

theorem contStart (axis : Byte) : Statement (.contStart axis) :=
  ⟨rfl, commandWord_masked _ _⟩

theorem contStop (axis : Byte) : Statement (.contStop axis) :=
  ⟨rfl, commandWord_masked _ _⟩

theorem swingStart (axis : Byte) (period : Int) : Statement (.swingStart axis period) :=
  ⟨rfl, commandWord_masked _ _⟩

theorem swingStop (axis : Byte) : Statement (.swingStop axis) :=
  ⟨rfl, commandWord_masked _ _⟩

theorem seqWrite (axis : Byte) (index : BitVec 16) (entry : Entry) (rsv : BitVec 14) : Statement (.seqWrite axis index entry rsv) :=
  ⟨rfl, commandWord_masked _ _⟩

theorem seqSetLen (axis : Byte) (len : Nat) : Statement (.seqSetLen axis len) :=
  ⟨rfl, commandWord_masked _ _⟩

theorem seqSetPeriod (axis : Byte) (period : Int) : Statement (.seqSetPeriod axis period) :=
  ⟨rfl, commandWord_masked _ _⟩

theorem seqStart (axis : Byte) (mask : Word) : Statement (.seqStart axis mask) :=
  ⟨rfl, commandWord_masked _ _⟩

theorem readReg (axis : Byte) (reg : BitVec 16) (rsv : BitVec 16) : Statement (.readReg axis reg rsv) :=
  ⟨rfl, commandWord_masked _ _⟩

theorem stepLoFwd : Statement .stepLoFwd :=
  ⟨rfl, rfl, rfl⟩

theorem stepHiFwd : Statement .stepHiFwd :=
  ⟨rfl, rfl, rfl⟩

theorem stepLoRev : Statement .stepLoRev :=
  ⟨rfl, rfl, rfl⟩

theorem stepHiRev : Statement .stepHiRev :=
  ⟨rfl, rfl, rfl⟩

end Sys2Proof.Laws.MatchesRow
end

