-- ==== Sys2Proof/Tests/Slice0.lean ====
section
/-! SUPPORT. Tests: the well-formedness smoke, a written-out word for every row of the opcode table, one step of every instruction against 95_test_vectors, and for every statement with hypotheses a state and operands that meet them. -/

namespace Sys2Proof.Tests

open Sys2Proof Sys2Proof.Machine

-- One theorem after the other: kernel evaluations started side by side would each hold a thread.
set_option Elab.async false

/-! ### Well-formedness: each check refuses an ill-formed term -/

theorem test_wf_refuses_setReference : (Instr.setReference 0 2147483648).wf = false := by decide
theorem test_wf_refuses_goAbs : (Instr.goAbs 0 (-2147483649)).wf = false := by decide
theorem test_wf_refuses_goRel : (Instr.goRel 0 2147483648).wf = false := by decide
theorem test_wf_refuses_setSpeedPw : (Instr.setSpeedPw 0 (-2147483649)).wf = false := by decide
theorem test_wf_refuses_setSpeedRps : (Instr.setSpeedRps 0 2147483648).wf = false := by decide
theorem test_wf_refuses_setSpeedSps : (Instr.setSpeedSps 0 2147483648).wf = false := by decide
theorem test_wf_refuses_setSpeedRpm : (Instr.setSpeedRpm 0 (-2147483649)).wf = false := by decide
theorem test_wf_refuses_swingStart : (Instr.swingStart 0 2147483648).wf = false := by decide
theorem test_wf_refuses_seqSetLen : (Instr.seqSetLen 0 4294967296).wf = false := by decide
theorem test_wf_refuses_seqSetPeriod : (Instr.seqSetPeriod 0 2147483648).wf = false := by decide

/-! ### Decoding: words written out from 30_encoding R91, R93, R95 to R97, and R103's examples -/

theorem test_decode_enable : decodeCommand 0x00000101#32 0xFFFFFFFF#32 = .ok (.enable 1) := by decide
theorem test_decode_disable : decodeCommand 0x00001F02#32 0 = .ok (.disable 31) := by decide
theorem test_decode_setDirection :
    decodeCommand 0x00000103#32 0x00000003#32 = .ok (.setDirection 1 .rev 1) := by decide
theorem test_decode_setReference :
    decodeCommand 0x00000004#32 0xFFFFFC18#32 = .ok (.setReference 0 (-1000)) := by decide
theorem test_decode_goAbs : decodeCommand 0x00000005#32 0x00001388#32 = .ok (.goAbs 0 5000) := by decide
theorem test_decode_goRel : decodeCommand 0x00000106#32 0x00015F90#32 = .ok (.goRel 1 90000) := by decide
theorem test_decode_setSpeedPw :
    decodeCommand 0x00000007#32 0x0000000A#32 = .ok (.setSpeedPw 0 10) := by decide
theorem test_decode_setSpeedRps :
    decodeCommand 0x00000008#32 0x000003E8#32 = .ok (.setSpeedRps 0 1000) := by decide
theorem test_decode_setSpeedSps :
    decodeCommand 0x00000009#32 0x000F4240#32 = .ok (.setSpeedSps 0 1000000) := by decide
theorem test_decode_setSpeedRpm :
    decodeCommand 0x0000000A#32 0xFFFFFFFF#32 = .ok (.setSpeedRpm 0 (-1)) := by decide
theorem test_decode_contStart : decodeCommand 0x0000010B#32 7 = .ok (.contStart 1) := by decide
theorem test_decode_contStop : decodeCommand 0x0000000C#32 0 = .ok (.contStop 0) := by decide
theorem test_decode_swingStart :
    decodeCommand 0x0000000D#32 0x000003E8#32 = .ok (.swingStart 0 1000) := by decide
theorem test_decode_swingStop : decodeCommand 0x0000010E#32 0 = .ok (.swingStop 1) := by decide
theorem test_decode_seqWrite :
    decodeCommand 0x00000110#32 0x00070005#32 = .ok (.seqWrite 1 5 ⟨true, .rev⟩ 1) := by decide
theorem test_decode_seqSetLen :
    decodeCommand 0x00000011#32 0xFFFFFFFF#32 = .ok (.seqSetLen 0 4294967295) := by decide
theorem test_decode_seqSetPeriod :
    decodeCommand 0x00000012#32 0x000001F4#32 = .ok (.seqSetPeriod 0 500) := by decide
theorem test_decode_seqStart : decodeCommand 0x00000013#32 3 = .ok (.seqStart 0 3) := by decide
theorem test_decode_readReg :
    decodeCommand 0x00000020#32 0x00010015#32 = .ok (.readReg 0 0x15 1) := by decide
theorem test_decode_stepLoFwd : decodeEntry 0b00#8 = .ok .stepLoFwd := by decide
theorem test_decode_stepHiFwd : decodeEntry 0b01#8 = .ok .stepHiFwd := by decide
theorem test_decode_stepLoRev : decodeEntry 0b10#8 = .ok .stepLoRev := by decide
theorem test_decode_stepHiRev : decodeEntry 0b11#8 = .ok .stepHiRev := by decide

/-- V1 to V4: the reserved words are refused, by name. -/
theorem test_decode_refuses :
    decodeCommand 0x00000000#32 0 = .error .unknownOpcode
      ∧ decodeCommand 0x0000000F#32 0 = .error .unknownOpcode
      ∧ decodeCommand 0x00010001#32 0 = .error .reservedWordBits
      ∧ decodeCommand 0x000000FF#32 0 = .error .unknownOpcode
      ∧ decodeEntry 0b100#8 = .error .notAnEntry := by decide

/-- The table's words: a second word counts on from bit 32, an entry has 8 bits. -/
theorem test_decodeTableWord :
    decodeTableWord 32 0x00000106 = some (.goRel 1 0)
      ∧ decodeTableWord 64 0x00015F9000000106 = some (.goRel 1 90000)
      ∧ decodeTableWord 8 0x2 = some .stepLoRev ∧ decodeTableWord 32 0x14 = none := by decide

/-- W7, V10, 30_encoding R103, R105, R108: assembler text, the wire text and the binding. -/
theorem test_assemble :
    assembleLine Config.common "SEQ_WRITE 1, 5, STEP_HI_REV" = some [.command 0x110 0x30005]
      ∧ assembleLine Config.common "SEQ_LOAD 1, [HOLD_REV]"
          = some [.command 0x110 0x20000, .command 0x110 0x20001, .command 0x111 2]
      ∧ wireText "m" .setReference 42 = "m.set_reference(reference=42)" := by decide +kernel

/-! ### One step of each instruction (95_test_vectors) -/

/-- A state with a command on the port. -/
def port (word arg : Nat) (s : State) : State :=
  placeCommand (BitVec.ofNat 32 word) (BitVec.ofNat 32 arg) s

/-- What is seen of the next state an outcome gives. -/
def seen {α : Type} (r : Result) (see : State → α) : Option α :=
  match r with
  | .next t => some (see t)
  | .fault _ => none
  | .refused _ => none

/-- What is seen of the state after one step. -/
def after {α : Type} (s : State) (see : State → α) : Option α := seen (step s) see

/-- What is seen is seen of a next state. -/
theorem next_of_seen {α : Type} {r : Result} {see : State → α} {v : α} (h : seen r see = some v) :
    ∃ t, r = .next t ∧ see t = v := by
  cases r with
  | next t => exact ⟨t, rfl, by simpa [seen] using h⟩
  | fault _ => simp [seen] at h
  | refused _ => simp [seen] at h

/-- Axis 0 of the reset state, changed. -/
def withAxis (f : Axis → Axis) : State := modAx 0 f State.reset

/-- The status and register 0x00 of axis 0. -/
def status0 (t : State) : BitVec 4 × Word := (t.rspStatus, t.axisStatus 0)

/-- The status and the width of axis 0. -/
def width0 (t : State) : BitVec 4 × Nat := (t.rspStatus, (t.ax 0).pw)

/-- The steps that remain to a move; 0 when none runs. -/
def stepsLeft (t : State) : Nat :=
  match t.cmdState with
  | .moving m => m.remaining
  | .idle => 0
  | .busy => 0

theorem test_enable_V12 : after (port 0x001 0 State.reset) status0 = some (0, 0x61) := by decide +kernel
theorem test_enable_V5 :
    after (port 0x201 0 State.reset) (fun t => (t.rspStatus, t.faultSticky)) = some (2, 2) := by
  decide +kernel
theorem test_disable_V13 :
    after (port 0x002 0 (setEnable 0 true State.reset)) status0 = some (0, 0x20) := by decide +kernel
theorem test_setDirection_V14 :
    after (port 0x003 1 (setEnable 0 true State.reset)) status0 = some (0, 0x43) := by decide +kernel
theorem test_setDirection_V9 : after (port 0x003 2 State.reset) status0 = some (3, 0x20) := by decide +kernel
theorem test_setReference_V16 :
    after (port 0x004 725500 State.reset) (fun t => (t.ax 0).ref) = some (11 / 2) := by decide +kernel
theorem test_setReference_V17 :
    after (port 0x004 0x80000000 State.reset) (fun t => refMdeg (t.ax 0).ref) = some 276352 := by
  decide +kernel
theorem test_goAbs_V30 :
    after (port 0x005 5000 (withAxis fun x => { x with ref := 10 })) stepsLeft = some 197 := by
  decide +kernel
theorem test_goAbs_V31 :
    after (port 0x005 5000 (withAxis fun x => { x with ref := 10, dir := .rev })) stepsLeft = some 2 := by
  decide +kernel
theorem test_goRel_V20 :
    after (port 0x006 90000 State.reset) (fun t => (stepsLeft t, (t.ax 0).stepPin, t.rspValid))
      = some (50, true, false) := by decide +kernel
theorem test_goRel_V39 :
    after (port 0x006 90000 (withAxis fun x => { x with swing := true })) status0
      = some (8, 0x28) := by decide +kernel
theorem test_setSpeedPw_W8 : after (port 0x007 10 State.reset) width0 = some (0, 25) := by decide +kernel
theorem test_setSpeedRps_V19c : after (port 0x008 1000 State.reset) width0 = some (0, 2500) := by
  decide +kernel
theorem test_setSpeedSps_V19a : after (port 0x009 3000 State.reset) width0 = some (0, 166666) := by
  decide +kernel
theorem test_setSpeedSps_V19b : after (port 0x009 0 State.reset) width0 = some (4, 500) := by decide +kernel
theorem test_setSpeedRpm_V19d : after (port 0x00A 7000 State.reset) width0 = some (0, 21428) := by
  decide +kernel
theorem test_contStart_V43 :
    after (port 0x00B 0 (withAxis fun x => { x with pw := 30 })) (fun t => pwmFreq (t.ax 0))
      = some 16666666 := by decide +kernel
theorem test_contStop_V48 :
    after (port 0x00C 0 (startSwing 0 1000 (startGenerator 0 State.reset)))
      (fun t => ((t.ax 0).cont, (t.ax 0).swing, (t.ax 0).stepPin)) = some (false, true, false) := by
  decide +kernel
theorem test_swingStart_V46 :
    after (port 0x00D 1000 State.reset)
      (fun t => ((t.ax 0).cont, (t.ax 0).swing, (t.ax 0).swingNext)) = some (true, true, some 1000000) := by
  decide +kernel
theorem test_swingStart_V49 : after (port 0x00D 0 State.reset) status0 = some (5, 0x20) := by decide +kernel
theorem test_swingStop_V47 :
    after (port 0x00E 0 (startSwing 0 1000 (startGenerator 0 State.reset))) status0 = some (0, 0x20) := by
  decide +kernel
theorem test_seqWrite_V10 :
    after (port 0x110 0x00030005 State.reset) (fun t => t.seqRead 1 5) = some (some ⟨true, .rev⟩) := by
  decide +kernel
theorem test_seqWrite_V90 :
    after (port 0x010 0x00000100 State.reset) (fun t => (t.rspStatus, t.mem)) = some (6, []) := by
  decide +kernel
theorem test_seqSetLen : after (port 0x111 256 State.reset) (fun t => (t.ax 1).seqLen) = some 256 := by
  decide +kernel
theorem test_seqSetLen_V92 :
    after (port 0x011 257 State.reset) (fun t => (t.rspStatus, (t.ax 0).seqLen)) = some (6, 0) := by
  decide +kernel
theorem test_seqSetPeriod : after (port 0x012 500 State.reset) (fun t => t.seqPeriod) = some 500 := by
  decide +kernel
theorem test_seqSetPeriod_V93 :
    after (port 0x012 0xFFFFFFFF State.reset) (fun t => (t.rspStatus, t.seqPeriod)) = some (5, 0) := by
  decide +kernel

/-- Two entries loaded on axis 0 and one on axis 1, period 500. -/
def loaded : State :=
  let s := modAx 0 (fun x => { x with seqLen := 2 }) (modAx 1 (fun x => { x with seqLen := 1 }) State.reset)
  { s with mem := [(0, 1), (1, 0), (65536, 3)], seqPeriod := 500 }

/-- The sequence on axis 0 running, its first tick at 500. -/
def playing : State := seqStartEffect 1 loaded

theorem test_seqStart_W :
    after (port 0x013 1 loaded) (fun t => (t.rspStatus, t.seqRun, t.seqEnd, t.seqNext))
      = some (0, true, 2, some 500) := by decide +kernel
theorem test_seqStart_V84 :
    after (port 0x013 3 loaded) (fun t => (t.rspStatus, t.seqRun)) = some (0xA, false) := by decide +kernel
theorem test_readReg_V103 :
    after (port 0x020 0x16 State.reset) (fun t => (t.rspStatus, t.rspData)) = some (0, 0x19010100) := by
  decide +kernel
theorem test_readReg_V105 :
    after (port 0x320 0x07 State.reset) (fun t => (t.rspStatus, t.rspData)) = some (3, 0) := by decide +kernel

/-- The levels of axis 0's pins, and whether the sequence goes on. -/
def pins0 (t : State) : Bool × Bool × Bool := ((t.ax 0).stepPin, (t.ax 0).dirPin, t.seqRun)

theorem test_stepLoFwd : after ((withAxis fun x => { x with stepPin := true }).withFetchWord 8 0) pins0
    = some (false, true, false) := by decide +kernel
theorem test_stepHiFwd : after (State.reset.withFetchWord 8 1) pins0 = some (true, true, false) := by
  decide +kernel
theorem test_stepLoRev : after (State.reset.withFetchWord 8 2) pins0 = some (false, false, false) := by
  decide +kernel
theorem test_stepHiRev_V94 : after (State.reset.withFetchWord 8 3) pins0 = some (true, false, false) := by
  decide +kernel

/-- V65 and V66: the planner's pairs and warnings. -/
theorem test_planner :
    (funcToPulse Config.common (fun x => x / 2) 0 4 1 1).map (fun p => (p.entries, p.warnings))
        = some (holdPair .fwd ++ pairFwd ++ holdPair .fwd ++ pairFwd, [])
      ∧ (funcToPulse Config.common (fun x => 3 * x) 0 3 1 1).map (fun p => (p.entries, p.warnings, p.y))
        = some (pairFwd ++ pairFwd ++ pairFwd, [1, 2, 3], 3)
      ∧ (funcToPulse Config.common (fun x => x) 0 4 0 1).isNone = true := by decide +kernel

/-- 43_planner R195: an instance set to reverse holds that direction until its first step pair. -/
theorem test_planner_initial_dir :
    (funcToPulse { Config.common with plannerInitialDir := .rev } (fun x => x / 2) 0 3 1 1).map
        (fun p => p.entries)
      = some (holdPair .rev ++ pairFwd ++ holdPair .fwd) := by decide +kernel

/-! ### Witnesses: states and operands that meet the hypotheses of the statements -/

/-- A one-step move on axis 0 begun at 0, while no sequence runs. -/
def stepping : State := moveRel 0 (degrees 1800) State.reset

/-- The generator and the swing timer of axis 0 running. -/
def swinging : State := startSwing 0 1 (startGenerator 0 State.reset)

/-- The bits of the mask 1. -/
theorem mask_one {a : Nat} (h : (1#32).getLsbD a = true) : a = 0 := by
  have hk : ∀ b < 32, (1#32).getLsbD b = true → b = 0 := by decide
  exact hk a (BitVec.lt_of_getLsbD h) h

/-- The bits of the mask 3. -/
theorem mask_three {a : Nat} (h : (3#32).getLsbD a = true) : a = 0 ∨ a = 1 := by
  have hk : ∀ b < 32, (3#32).getLsbD b = true → b = 0 ∨ b = 1 := by decide
  exact hk a (BitVec.lt_of_getLsbD h) h

/-- No bit of these masks names an axis beyond the second. -/
theorem mask_fits {mask : Word} (h : maskNamesNoAxis 2 mask = false) :
    ∀ a, State.reset.inst.nAxes ≤ a → mask.getLsbD a = false := maskNamesNoAxis_eq_false.mp h

/-- An axis with no generator and no swing is good when its other fields are. -/
theorem good_of_still {p : Config.Params} {x : Axis} (hp : x.pwm = none) (hc : x.cont = false)
    (hs : x.swing = false)
    (h : (0 ≤ x.ref ∧ x.ref < 360) ∧ (25 ≤ x.pw ∧ x.pw ≤ 4294967295) ∧ x.seqLen ≤ p.seqDepth
      ∧ x.enPin = lvlEn p x.en ∧ x.swingMs ≤ 2147483647) : x.Good p where
  ref_nonneg := h.1.1
  ref_lt := h.1.2
  pw_floor := h.2.1.1
  pw_max := h.2.1.2
  seqLen_le := h.2.2.1
  enPin_eq := h.2.2.2.1
  swing_ms := by simp [hs]
  swing_ms_max := h.2.2.2.2
  swing_timer := by simp [hs]
  cont_pwm := by simp [hp, hc]
  cont_width := by simp [hc]
  pwm_wait := by simp [hp]

theorem playing_good (a : Nat) (h : a < 2) : (playing.ax a).Good playing.inst := by
  have : a = 0 ∨ a = 1 := by omega
  rcases this with rfl | rfl <;> exact good_of_still rfl rfl rfl (by decide +kernel)

theorem stepping_good (a : Nat) (h : a < 2) : (stepping.ax a).Good stepping.inst := by
  have hx : stepping.ax 0 = { State.reset.ax 0 with stepPin := true } ∧ stepping.ax 1 = State.reset.ax 1 := by
    decide +kernel
  have : a = 0 ∨ a = 1 := by omega
  rcases this with rfl | rfl
  · rw [hx.1]; exact good_of_still rfl rfl rfl (by decide +kernel)
  · rw [hx.2]; exact good_of_still rfl rfl rfl (by decide +kernel)

theorem playing_seqGood : playing.SeqGood where
  period := by decide
  mask_ne := by decide
  idx_lt := by decide
  timer := rfl
  not_busy := by decide +kernel
  long_enough := by decide +kernel
  written := by decide +kernel

/-- A state in which a sequence runs satisfies the invariant. -/
theorem test_playing_inv : playing.Inv where
  inst_wf := by decide +kernel
  axes_length := rfl
  axis_good := playing_good
  mem_wf := by decide
  mem_in_range := by decide +kernel
  mask_fits := by decide
  end_le := by decide
  seq_good := fun _ => playing_seqGood
  move_good := fun m h => by cases h
  not_busy := by decide
  codes := by decide

/-- The move record of the one-step move. -/
theorem stepping_record : stepping.cmdState = .moving ⟨0, 1, .high, 500, 500⟩ := by decide +kernel

/-- A state in which a move runs satisfies the invariant. -/
theorem test_stepping_inv : stepping.Inv where
  inst_wf := by decide +kernel
  axes_length := by decide +kernel
  axis_good := fun a h => stepping_good a (lt_of_lt_of_eq h (by decide +kernel))
  mem_wf := by decide +kernel
  mem_in_range := by decide +kernel
  mask_fits := by decide +kernel
  end_le := by decide +kernel
  seq_good := fun h => absurd h (by decide +kernel)
  move_good := fun m h => by
    rw [stepping_record, CmdState.moving.injEq] at h
    subst h
    exact ⟨by decide +kernel, by decide, by decide +kernel, by decide +kernel, by decide +kernel⟩
  not_busy := by decide +kernel
  codes := by decide +kernel

/-- The one-step move at the end of its high phase. -/
def steppingEdge : State := { stepping with now := 500 }

/-- The clock has no part in the invariant while no sequence runs. -/
theorem test_steppingEdge_inv : steppingEdge.Inv where
  inst_wf := test_stepping_inv.inst_wf
  axes_length := test_stepping_inv.axes_length
  axis_good := test_stepping_inv.axis_good
  mem_wf := test_stepping_inv.mem_wf
  mem_in_range := test_stepping_inv.mem_in_range
  mask_fits := test_stepping_inv.mask_fits
  end_le := test_stepping_inv.end_le
  seq_good := fun h => absurd h (by decide +kernel)
  move_good := fun m h =>
    have g := test_stepping_inv.move_good m h
    ⟨g.axis_lt, g.remaining_pos, g.width_eq, g.not_busy, g.not_seq⟩
  not_busy := test_stepping_inv.not_busy
  codes := test_stepping_inv.codes

theorem quiet_of {s : State} (h : s.resetIn = false ∧ s.cmdValid = false ∧ s.cmdStream = []
    ∧ s.resetStream = [] ∧ ∀ a < s.inst.nAxes, s.contBusy a = false) : s.Quiet :=
  ⟨h.1, h.2.1, h.2.2.1, h.2.2.2.1, h.2.2.2.2⟩

theorem witness_DecodeOfEncode :
    (Instr.goRel 255 2147483647).wf = true ∧ (Instr.goRel 255 (-2147483648)).wf = true
      ∧ (Instr.seqSetLen 0 4294967295).wf = true := by decide

theorem witness_EncodeOfDecode :
    decodeCommand 0x0000FF01#32 5 = .ok (.enable 255)
      ∧ decodeCommand 0x00000020#32 0xFFFF0016#32 = .ok (.readReg 0 0x16 0xFFFF) := by decide

theorem witness_IllegalCommandsAreRefused :
    ((port 0x10001 0 State.reset).resetIn = false ∧ (port 0x10001 0 State.reset).due = [.cmd]
        ∧ decodeCommand (port 0x10001 0 State.reset).cmdWord (port 0x10001 0 State.reset).cmdArg
          = .error .reservedWordBits)
      ∧ (port 0x21 0 State.reset).resetIn = false ∧ (port 0x21 0 State.reset).due = [.cmd]
        ∧ decodeCommand (port 0x21 0 State.reset).cmdWord (port 0x21 0 State.reset).cmdArg
          = .error .unknownOpcode := by decide +kernel

theorem witness_ClampFollowsItsRule :
    (0 : Rat) < 1 / 2 ∧ (0 : Rat) ≤ 0 ∧ State.reset.Shaped
      ∧ ∀ i ∈ [Instr.setSpeedPw 1 (-5), .setSpeedSps 1 (-5), .setSpeedRps 1 (-5), .setSpeedRpm 1 (-5)],
        ∃ t, exec i State.reset = .next t ∧ t.rspStatus = 0 := by
  refine ⟨by decide +kernel, by decide +kernel, rfl, fun i hi => next_of_seen ?_⟩
  revert i
  decide +kernel

theorem witness_EnableAndDisableComplete :
    playing.Shaped ∧ (0#8).toNat < playing.inst.nAxes ∧ (1#8).toNat < playing.inst.nAxes
      ∧ playing.inst.nAxes ≤ (2#8).toNat ∧ playing.inst.nAxes ≤ (255#8).toNat := by decide

theorem witness_SetDirectionCompletes :
    playing.Shaped ∧ (1#8).toNat < playing.inst.nAxes ∧ playing.seqOwns (1#8).toNat = false := by decide

theorem witness_SetReferenceCompletes :
    playing.Shaped ∧ (0#8).toNat < playing.inst.nAxes ∧ playing.inst.nAxes ≤ (2#8).toNat := by decide

theorem witness_SpeedSettersComplete :
    swinging.Shaped ∧ (0#8).toNat < swinging.inst.nAxes ∧ (-1 : Int) ≠ 0 ∧ (swinging.ax 0).cont = true
      ∧ (swinging.ax 1).cont = false := by decide +kernel

theorem witness_StepCountIsTheFloor :
    (0 : Rat) < 200 ∧ (-1 : Rat) / 1000 < 0 ∧ (2147483647 : Int) ≤ 2 ^ 31 - 1
      ∧ ∃ t, exec (.goRel 0 1800) State.reset = .next t ∧ t.cmdState = .moving ⟨0, 1, .high, 500, 500⟩ := by
  refine ⟨by decide +kernel, by decide +kernel, by decide, next_of_seen ?_⟩
  decide +kernel

theorem witness_RelativeAngleIsDirectionSticky :
    (0 : Rat) ≤ 3599 / 10 ∧ (3599 / 10 : Rat) < 360 ∧ (0 : Rat) ≤ 0 ∧ (0 : Rat) < 360
      ∧ (360 : Rat) < 3601 / 10 ∧ (-1 / 10 : Rat) < 0 := by decide +kernel

theorem witness_ReferenceAfterStepsIsExact : (0 : Rat) ≤ 0 ∧ (3599 / 10 : Rat) < 360 := by decide +kernel

theorem witness_MovesBegin :
    playing.Shaped ∧ (1#8).toNat < playing.inst.nAxes ∧ playing.seqOwns (1#8).toNat = false
      ∧ playing.contBusy (1#8).toNat = false
      ∧ stepCount (playing.ratio 1) ((1799 : Int) / 1000) = 0
      ∧ stepCount (playing.ratio 1) ((1800 : Int) / 1000) = 1 := by decide +kernel

theorem witness_MoveEngineEdges :
    ∀ m ∈ [(⟨0, 1, .high, 500, 500⟩ : Move), ⟨0, 1, .low, 500, 500⟩, ⟨0, 2, .low, 500, 500⟩],
      ({ State.reset with cmdState := .moving m }).Shaped ∧ m.axis < State.reset.inst.nAxes
        ∧ (State.reset.ax m.axis).cont = false := by decide +kernel

theorem witness_MoveRunsToItsEnd :
    stepping.Inv ∧ stepping.Quiet ∧ stepping.seqRun = false
      ∧ stepping.cmdState = .moving ⟨0, 1, .high, 500, 500⟩ ∧ (500 : Rat) = stepping.now + ((500 : Nat) : Rat) :=
  ⟨test_stepping_inv, quiet_of (by decide +kernel), by decide +kernel, stepping_record, by decide +kernel⟩

theorem witness_GeneratorStarts :
    playing.Shaped ∧ (1#8).toNat < playing.inst.nAxes ∧ playing.seqOwns (1#8).toNat = false
      ∧ (0 : Int) < 1 := by decide

theorem witness_GeneratorStops :
    swinging.Shaped ∧ (0#8).toNat < swinging.inst.nAxes ∧ swinging.seqOwns (0#8).toNat = false
      ∧ (swinging.ax 0).swing = true := by decide +kernel

theorem witness_SwingToggles :
    swinging.Shaped ∧ 0 < swinging.inst.nAxes ∧ (swinging.ax 0).swingNext = some 1000 := by decide +kernel

/-- The generator of axis 0 at its first edge, a whole half-period after its start. -/
def atEdge : State := { modAx 0 (fun x => { x with pwm := some ⟨0, some 500⟩ }) swinging with now := 500 }

theorem witness_GeneratorIsASquareWave :
    atEdge.Shaped ∧ 0 < atEdge.inst.nAxes ∧ (atEdge.ax 0).pwm = some ⟨0, some 500⟩
      ∧ atEdge.now = 0 + 500 ∧ (atEdge.ax 0).contPw = 500 := by decide +kernel

/-- Where `PWM_FREQ_QUANT` is exact at 1000 Hz, which is open, the next edge of that generator comes 500 us later. -/
theorem witness_GeneratorIsASquareWave_next (h : actualFreq 500 = nominalFreq 500) :
    halfPeriod (atEdge.ax 0).contPw = some 500 :=
  (congrArg halfPeriod (by decide +kernel)).trans (halfPeriod_of_exact (by decide) h)

theorem witness_SeqWriteStoresOneEntry :
    (1#8).toNat < State.reset.inst.nAxes ∧ (255#16).toNat < State.reset.inst.seqDepth
      ∧ State.reset.seqRun = false := by decide

theorem witness_SeqLengthAndPeriodAreSet :
    State.reset.Shaped ∧ (1#8).toNat < State.reset.inst.nAxes ∧ 256 ≤ State.reset.inst.seqDepth
      ∧ State.reset.seqRun = false ∧ (0 : Int) < 1 ∧ (2147483647 : Int) ≤ 2147483647 := by decide

theorem witness_SeqStartBegins :
    (∀ a, loaded.inst.nAxes ≤ a → (1#32).getLsbD a = false) ∧ loaded.seqRun = false
      ∧ (∀ a, (1#32).getLsbD a = true → loaded.contBusy a = false)
      ∧ loaded.seqPeriod ≠ 0 ∧ 0 < 2 ∧ 2 < 65536
      ∧ (∃ a, (1#32).getLsbD a = true ∧ (loaded.ax a).seqLen = 2)
      ∧ (∀ a, (1#32).getLsbD a = true → 2 ≤ (loaded.ax a).seqLen)
      ∧ (loaded.inst.checkEqualLength = true → ∀ a, (1#32).getLsbD a = true → (loaded.ax a).seqLen = 2)
      ∧ ∀ a, (1#32).getLsbD a = true → ∀ i, i < 2 → (loaded.seqRead a i).isSome = true := by
  refine ⟨mask_fits (by decide), rfl, ?_, by decide, by decide, by decide, ⟨0, by decide, rfl⟩, ?_, ?_, ?_⟩
  · intro a h; rw [mask_one h]; decide
  · intro a h; rw [mask_one h]; decide
  · intro _ a h; rw [mask_one h]; decide
  · intro a h; rw [mask_one h]; decide

/-- One witness for each clause, in the clauses' order. -/
theorem witness_SeqStartFaultsInOrder :
    (¬ ∀ a, loaded.inst.nAxes ≤ a → (4#32).getLsbD a = false)
    ∧ ((∀ a, playing.inst.nAxes ≤ a → (0#32).getLsbD a = false) ∧ playing.seqRun = true)
    ∧ ((∀ a, swinging.inst.nAxes ≤ a → (1#32).getLsbD a = false) ∧ swinging.seqRun = false
      ∧ ¬ ∀ a, (1#32).getLsbD a = true → swinging.contBusy a = false)
    ∧ ((∀ a, (3#32).getLsbD a = true → State.reset.contBusy a = false) ∧ State.reset.seqPeriod = 0)
    ∧ (loaded.seqRun = false ∧ loaded.seqPeriod ≠ 0
      ∧ (∀ a, (0#32).getLsbD a = true → loaded.contBusy a = false) ∧ (0#32 : Word) = 0)
    ∧ ((∀ a, (3#32).getLsbD a = true → loaded.contBusy a = false)
      ∧ ((∃ a, (3#32).getLsbD a = true ∧ (loaded.ax a).seqLen = 1)
        ∧ ∀ a, (3#32).getLsbD a = true → 1 ≤ (loaded.ax a).seqLen)
      ∧ loaded.inst.checkEqualLength = true
      ∧ ∃ a, (3#32).getLsbD a = true ∧ (loaded.ax a).seqLen ≠ 1)
    ∧ ∃ a i, (1#32).getLsbD a = true ∧ i < 2 ∧ ({ loaded with mem := [(0, 1)] }).seqRead a i = none := by
  refine ⟨fun h => absurd (h 2 (by decide)) (by decide), ⟨mask_fits (by decide), rfl⟩,
    ⟨mask_fits (by decide), by decide +kernel, fun h => absurd (h 0 (by decide)) (by decide +kernel)⟩,
    ⟨?_, rfl⟩, ⟨rfl, by decide, fun a h => by simp at h, rfl⟩,
    ⟨?_, ⟨⟨1, by decide, rfl⟩, ?_⟩, rfl, ⟨0, by decide, by decide⟩⟩, ⟨0, 1, by decide, by decide, rfl⟩⟩
  · intro a h; rcases mask_three h with rfl | rfl <;> decide
  · intro a h; rcases mask_three h with rfl | rfl <;> decide
  · intro a h; rcases mask_three h with rfl | rfl <;> decide

theorem witness_EntriesDriveTheirPins :
    (playing.Shaped ∧ playing.lane < playing.inst.nAxes ∧ (playing.ax playing.lane).cont = false)
      ∧ swinging.Shaped ∧ swinging.lane < swinging.inst.nAxes
        ∧ (swinging.ax swinging.lane).cont = true := by decide +kernel

theorem witness_TickPlaysOneEntryPerLane :
    (playing.Shaped ∧ playing.seqIdx.toNat < playing.inst.seqDepth ∧ playing.seqNext = some 500
      ∧ (∀ a ∈ playing.lanes, playing.seqRead a playing.seqIdx.toNat = some ⟨true, .fwd⟩
          ∧ (playing.ax a).cont = false) ∧ playing.seqIdx + 1 ≠ playing.seqEnd)
      ∧ ({ playing with seqIdx := 1 }).seqIdx + 1 = playing.seqEnd
        ∧ ∀ a ∈ playing.lanes, ({ playing with seqIdx := 1 }).seqRead a 1 = some ⟨false, .fwd⟩ := by
  decide +kernel

theorem witness_SequencePlaysToItsEnd :
    playing.Inv ∧ playing.Quiet ∧ playing.cmdState = .idle ∧ playing.seqRun = true
      ∧ playing.seqNext = some 500 ∧ playing.now < 500
      ∧ (∀ a ∈ playing.lanes, playing.seqRead a (playing.seqIdx.toNat + 0) = some ⟨true, .fwd⟩)
      ∧ ∀ a ∈ playing.lanes, playing.seqRead a (playing.seqIdx.toNat + 1) = some ⟨false, .fwd⟩ :=
  ⟨test_playing_inv, quiet_of (by decide +kernel), rfl, rfl, by decide +kernel, by decide +kernel,
    by decide +kernel, by decide +kernel⟩

theorem witness_ReadRegHasNoSideEffect :
    ((0x06#16).toNat ≤ 0x06 ∧ (1#8).toNat < playing.inst.nAxes)
      ∧ (0x10 ≤ (0x10#16).toNat ∧ (0x16#16).toNat ≤ 0x16) := by decide

theorem witness_AxisRegistersReadTheirFields :
    (playing.ax 1).Good playing.inst ∧ playing.inst.seqDepth ≤ 65535 ∧ 0 < playing.ratio 1
      ∧ (playing.ax 1).cont = false ∧ (playing.ax 1).swing = false :=
  ⟨playing_good 1 (by decide), by decide, by decide +kernel, rfl, rfl⟩

/-- The running generator and swing, for the clauses that need them. -/
theorem witness_AxisRegistersReadTheirFields_running :
    (swinging.ax 0).Good swinging.inst ∧ (swinging.ax 0).cont = true ∧ (swinging.ax 0).swing = true := by
  refine ⟨?_, by decide +kernel, by decide +kernel⟩
  constructor
  case pwm_wait =>
    intro p h w hp
    have hw : (swinging.ax 0).pwm = some ⟨0, some (firstWait (Config.freePhase 0) 500)⟩ := rfl
    rw [hw, Option.some.injEq] at h
    subst h
    rw [Option.some.injEq] at hp
    subst hp
    exact firstWait_pos _ (by decide)
  all_goals decide +kernel

theorem witness_GlobalRegistersReadTheirFields : playing.inst.wf = true := by decide +kernel

theorem witness_ReadRegFaults :
    (1#16 ≠ 0) ∧ (¬ ((0x07#16).toNat ≤ 0x06 ∨ (0x10 ≤ (0x07#16).toNat ∧ (0x07#16).toNat ≤ 0x16)))
      ∧ (¬ ((0x17#16).toNat ≤ 0x06 ∨ (0x10 ≤ (0x17#16).toNat ∧ (0x17#16).toNat ≤ 0x16)))
      ∧ ((0x00#16).toNat < 0x10 ∧ playing.inst.nAxes ≤ (2#8).toNat)
      ∧ (0x10 ≤ (0x10#16).toNat ∧ (1#8) ≠ 0) := by decide

theorem witness_FaultsHaveNoEffect :
    (Instr.seqStart 0 0).isEntry = false ∧ decodeCommand State.reset.cmdWord State.reset.cmdArg
      = .error .unknownOpcode := by decide

theorem witness_BadAxisFaults :
    playing.inst.nAxes ≤ (2#8).toNat ∧ (1#8) ≠ 0
      ∧ Instr.swingStop 2 ∈ [Instr.enable 2, .disable 2, .contStart 2, .contStop 2, .swingStop 2] := by decide

theorem witness_OperandFaults :
    (1#8).toNat < playing.inst.nAxes ∧ (1#31) ≠ 0 ∧ (1#14) ≠ 0 ∧ (0 : Int) ≤ 0
      ∧ playing.inst.seqDepth ≤ (256#16).toNat ∧ playing.inst.seqDepth < 257 := by decide

theorem witness_BusyFaults :
    ((0#8).toNat < playing.inst.nAxes ∧ playing.seqRun = true ∧ playing.seqMask.getLsbD (0#8).toNat = true
      ∧ (0 : Int) < 1 ∧ (255#16).toNat < playing.inst.seqDepth ∧ 256 ≤ playing.inst.seqDepth)
      ∧ (swinging.ax (0#8).toNat).cont = true ∧ swinging.seqOwns (0#8).toNat = false := by decide +kernel

theorem witness_StepRunsTheCommand :
    (port 0x006 90000 State.reset).resetIn = false ∧ (port 0x006 90000 State.reset).due = [.cmd]
      ∧ decodeCommand (port 0x006 90000 State.reset).cmdWord (port 0x006 90000 State.reset).cmdArg
        = .ok (.goRel 0 90000) := by decide +kernel

/-- The running sequence when its first tick is due. -/
def ticking : State := { playing with now := 500 }

theorem witness_StepRunsTheEntry :
    (ticking.resetIn = false ∧ ticking.due = [.seq] ∧ ticking.seqNext = some 500 ∧ ticking.lanes = [0]
      ∧ ticking.seqIdx.toNat < ticking.inst.seqDepth
      ∧ memRead ticking.mem (0 * 65536 + ticking.seqIdx.toNat) = some 1#8
      ∧ decodeEntry 1#8 = .ok .stepHiFwd)
      ∧ ∃ t, exec .stepHiFwd { ticking with lane := 0 } = .next t :=
  ⟨by decide +kernel, _, rfl⟩

theorem witness_OneDueAgentSteps :
    (ticking.resetIn = false ∧ ticking.due ≠ []) ∧ playing.resetIn = false ∧ playing.due = [] := by
  decide +kernel

/-- A step exists: the hypothesis of the statements about every step. -/
theorem witness_ParametersNeverChange : ∃ t, step ticking = .next t ∧ t.seqIdx = 1 :=
  next_of_seen (by decide +kernel)

theorem witness_ClockOnlyAdvances : ∃ t, step playing = .next t ∧ t.now = 500 :=
  next_of_seen (by decide +kernel)

theorem witness_ResetSatisfiesTheInvariant : Config.common.wf = true := by decide +kernel

theorem witness_StepKeepsTheInvariant :
    (playing.Inv ∧ ∃ t, step playing = .next t ∧ t.seqRun = true)
      ∧ stepping.Inv ∧ ∃ t, step stepping = .next t ∧ t.now = 500 :=
  ⟨⟨test_playing_inv, next_of_seen (by decide +kernel)⟩, test_stepping_inv, next_of_seen (by decide +kernel)⟩

theorem witness_MachineNeverStops : playing.Inv := test_playing_inv

theorem witness_NoEventIsOvertaken :
    playing.Inv ∧ playing.OnTime ∧ ∃ t, step playing = .next t ∧ t.now = 500 := by
  refine ⟨test_playing_inv, ?_, next_of_seen (by decide +kernel)⟩
  have h : ∀ g ∈ playing.agents, ∀ t ∈ playing.agentTime g, playing.now ≤ t := by decide +kernel
  exact fun g t hg _ _ ht => h g hg t ht

theorem witness_ReachableStatesSatisfyR60 :
    Config.common.wf = true
      ∧ ∃ t, Reaches { State.resetOf Config.common with cmdStream := [⟨0, 0x106, 90000⟩], resetStream := [] } t
        ∧ stepsLeft t = 50 := by
  obtain ⟨t, h, ht⟩ : ∃ t, step { State.reset with cmdStream := [⟨0, 0x106, 90000⟩], resetStream := [] } = .next t
      ∧ t = placeCommand 0x106 90000 State.reset := next_of_seen (by decide +kernel)
  obtain ⟨u, hu, hn⟩ : ∃ u, step (placeCommand 0x106 90000 State.reset) = .next u ∧ stepsLeft u = 50 :=
    next_of_seen (by decide +kernel)
  exact ⟨by decide +kernel, u, .tail (.tail (.refl _) h) (ht ▸ hu), hn⟩

/-- The last tick is due, with a fault recorded and an entry written. -/
def ending : State := { ticking with seqIdx := 1, faultSticky := 3 }

theorem witness_OnlyResetUndoes :
    (∃ t, step ending = .next t ∧ t.resetIn = false ∧ t.seqRun = false)
      ∧ ending.resetIn = false ∧ ending.faultSticky ≠ 0 ∧ ending.seqRun = true
      ∧ (ending.seqRead 0 0).isSome = true
      ∧ stepping.resetIn = false ∧ stepping.cmdState = .moving ⟨0, 1, .high, 500, 500⟩
      ∧ ∃ t, step stepping = .next t ∧ t.resetIn = false := by
  obtain ⟨t, h, hr⟩ : ∃ t, step ending = .next t ∧ (t.resetIn, t.seqRun) = (false, false) :=
    next_of_seen (by decide +kernel)
  rw [Prod.mk.injEq] at hr
  exact ⟨⟨t, h, hr⟩, by decide, by decide, rfl, by decide, by decide +kernel, stepping_record,
    next_of_seen (by decide +kernel)⟩

theorem witness_PlayingSequenceIsNotModified :
    ticking.resetIn = false ∧ ticking.seqRun = true ∧ ∃ t, step ticking = .next t ∧ t.resetIn = false :=
  ⟨rfl, rfl, next_of_seen (by decide +kernel)⟩

theorem witness_EntriesKeepTheirValue :
    (port 0x010 0x00030000 loaded).resetIn = false
      ∧ (port 0x010 0x00030000 loaded).seqRead 0 0 = some ⟨true, .fwd⟩
      ∧ ∃ t, step (port 0x010 0x00030000 loaded) = .next t
        ∧ (t.resetIn, t.seqRead 0 0) = (false, some ⟨true, .rev⟩) :=
  ⟨rfl, by decide, next_of_seen (by decide +kernel)⟩

/-- A passage of time, which leaves the move record, and then a step of the move engine, which changes it. -/
theorem witness_MovingAxisIsLeftAlone :
    (stepping.Inv ∧ stepping.resetIn = false ∧ stepping.cmdState = .moving ⟨0, 1, .high, 500, 500⟩
      ∧ ∃ t, step stepping = .next t ∧ (t.resetIn, t.cmdState) = (false, .moving ⟨0, 1, .high, 500, 500⟩))
      ∧ steppingEdge.Inv ∧ steppingEdge.resetIn = false
      ∧ steppingEdge.cmdState = .moving ⟨0, 1, .high, 500, 500⟩
      ∧ ∃ t, step steppingEdge = .next t ∧ (t.resetIn, t.cmdState) = (false, .moving ⟨0, 1, .low, 1000, 500⟩) :=
  ⟨⟨test_stepping_inv, by decide +kernel, stepping_record, next_of_seen (by decide +kernel)⟩,
    test_steppingEdge_inv, by decide +kernel, stepping_record, next_of_seen (by decide +kernel)⟩

theorem witness_OnlyCommandsAndMovesTrack :
    (∃ t, perform .seq ticking = .next t ∧ t.seqIdx = 1)
      ∧ (∃ t, perform (.swg 0) swinging = .next t ∧ (t.ax 0).dir = .rev)
      ∧ Agent.seq ≠ .cmd ∧ Agent.swg 0 ≠ .move ∧ Agent.pwm 0 ≠ .rst ∧ ∀ b, Agent.seq ≠ .swg b :=
  ⟨next_of_seen (by decide +kernel), next_of_seen (by decide +kernel), by decide, by decide, by decide,
    fun b h => by cases h⟩

theorem witness_ResetStateIsTheTable : 1 < Config.common.nAxes := by decide

theorem witness_ResetAbandonsEverything :
    (∃ t, step { ticking with resetIn := true } = .next t ∧ t.seqRun = false)
      ∧ ∃ t, step { playing with resetStream := [⟨0, true⟩] } = .next t ∧ t.resetIn = true :=
  ⟨next_of_seen (by decide +kernel), next_of_seen (by decide +kernel)⟩

theorem witness_PlanHasTwoEntriesPerSample :
    (∃ p, funcToPulse Config.common (fun x => x) 0 2 1 1 = some p)
      ∧ funcToPulse Config.common (fun x => x) 0 2 0 1 = none := by
  refine ⟨⟨_, if_pos (by decide +kernel)⟩, if_neg (by decide +kernel)⟩

theorem witness_PlannerTracksWithinAQuantum :
    (0 : Rat) < 1 ∧ ∀ k : Nat, 1 ≤ k → k ≤ 2 →
      |(fun x : Rat => x / 2) (0 + (k : Rat) * 1) - (fun x : Rat => x / 2) (0 + ((k : Rat) - 1) * 1)| ≤ 1 := by
  refine ⟨by decide +kernel, fun k _ _ => ?_⟩
  have : (0 + (k : Rat) * 1) / 2 - (0 + ((k : Rat) - 1) * 1) / 2 = 1 / 2 := by ring
  simp only [this]
  decide +kernel

theorem witness_PlannerOnConstantsAndRamps : (0 : Rat) < 1 / 3 := by decide +kernel

theorem witness_SeqLoadLoadsTheSequence :
    State.reset.Shaped ∧ (1#8).toNat < State.reset.inst.nAxes
      ∧ (pairFwd ++ pairRev).length ≤ State.reset.inst.seqDepth ∧ State.reset.inst.seqDepth ≤ 65535
      ∧ State.reset.seqRun = false := by decide

theorem witness_WireBindingIsExact :
    ((-2147483648 / 1000 : Rat) * 1000 = ((-2 ^ 31 : Int) : Rat)
        ∧ wireCommand .goToAngleRelative 3 (-2147483648 / 1000) = some (.goRel 3 (-2147483648)))
      ∧ ((2147483647 : Rat) * 1 = ((2 ^ 31 - 1 : Int) : Rat)
        ∧ wireCommand .swing 3 2147483647 = some (.swingStart 3 2147483647))
      ∧ wireCommand .swing 3 2147483648 = none ∧ wireCommand .setSpeedPulseWidth 0 (1 / 2) = none
      ∧ wireCommand .setReference 0 (1 / 10000) = none := by
  decide +kernel

end Sys2Proof.Tests
end

section
/-! The wrap of an angle (00_scope R24), and the parameters of the block, which no step changes (00_scope R8). -/

namespace Sys2Proof.Machine

/-! ### The wrap into the turn -/

/-- The wrap is the fractional part of the angle counted in turns. -/
theorem wrap360_eq_fract (q : Rat) : wrap360 q = 360 * Int.fract (q / 360) := by
  have hfloor : wrap360 q = q - 360 * ((⌊q / 360⌋ : Int) : Rat) := rfl
  rw [hfloor, Int.fract, mul_sub, mul_div_cancel₀ q (by norm_num)]

theorem wrap360_nonneg (q : Rat) : 0 ≤ wrap360 q := by
  rw [wrap360_eq_fract]
  exact mul_nonneg (by norm_num) (Int.fract_nonneg _)

theorem wrap360_lt (q : Rat) : wrap360 q < 360 := by
  rw [wrap360_eq_fract]
  linarith [Int.fract_lt_one (q / 360)]

/-- Settles O5: 360 times a fractional part lies in `[0, 360)`, and the whole turns are the floor of `q / 360`. -/
theorem wrapStaysInTheTurn : Obligations.WrapStaysInTheTurn :=
  fun q => ⟨wrap360_nonneg q, wrap360_lt q, (q / 360).floor, rfl⟩

/-! ### What keeps the parameters: the operations with a case split -/

@[simp] theorem playEntry_inst (a : Nat) (e : Entry) (s : State) : (playEntry a e s).inst = s.inst := by
  rw [playEntry, writeDir_inst, writeStep_inst]

@[simp] theorem moveRel_inst (a : Nat) (rel : Rat) (s : State) : (moveRel a rel s).inst = s.inst := by
  unfold moveRel
  split
  · exact respond_inst 0 s
  · exact writeStep_inst a true _

@[simp] theorem endHigh_inst (m : Move) (s : State) : (endHigh m s).inst = s.inst :=
  writeStep_inst m.axis false _

@[simp] theorem endLow_inst (m : Move) (s : State) : (endLow m s).inst = s.inst := by
  unfold endLow
  split
  · rw [respond_inst, updateRef_inst]
  · exact (writeStep_inst m.axis true _).trans (updateRef_inst m.axis s)

@[simp] theorem moveStep_inst (m : Move) (s : State) : (moveStep m s).inst = s.inst := by
  unfold moveStep
  split
  · exact endHigh_inst m s
  · exact endLow_inst m s

@[simp] theorem advanceIndex_inst (time : Time) (s : State) : (advanceIndex time s).inst = s.inst := by
  unfold advanceIndex; split <;> rfl

@[simp] theorem presentCommand_inst (s : State) : (presentCommand s).inst = s.inst := by
  unfold presentCommand; split <;> rfl

@[simp] theorem resetEdge_inst (s : State) : (resetEdge s).inst = s.inst := by
  unfold resetEdge
  split
  · rfl
  · split <;> rfl

@[simp] theorem holdReset_inst (s : State) : (holdReset s).inst = s.inst := by
  unfold holdReset; split <;> rfl

@[simp] theorem passTime_inst (s : State) : (passTime s).inst = s.inst := by
  unfold passTime
  split
  · rfl
  · split <;> rfl

/-! ### What keeps the parameters: commands, entries and agents -/

/-- A command keeps the parameters when its effect does: a fault writes none. -/
theorem command_inst {s t effect : State} {checks : List (Bool × Cause)}
    (h : command s checks effect = .next t) (heffect : effect.inst = s.inst) : t.inst = s.inst := by
  rcases command_cases s checks effect with ⟨c, -, -, hfault⟩ | ⟨-, hpass⟩
  · cases hfault.symm.trans h
    exact raiseFault_inst c s
  · cases hpass.symm.trans h
    exact heffect

theorem exec_toInstr_inst {e : Entry} {s t : State} (h : exec e.toInstr s = .next t) :
    t.inst = s.inst := by
  cases (exec_toInstr e s).symm.trans h
  exact playEntry_inst s.lane e s

/-- No instruction changes a parameter. -/
theorem exec_inst {i : Instr} {s t : State} (h : exec i s = .next t) : t.inst = s.inst := by
  cases i with
  | goAbs axis mdeg | goRel axis mdeg => exact command_inst h (moveRel_inst axis.toNat _ s)
  | stepLoFwd => exact exec_toInstr_inst (e := ⟨false, .fwd⟩) h
  | stepHiFwd => exact exec_toInstr_inst (e := ⟨true, .fwd⟩) h
  | stepLoRev => exact exec_toInstr_inst (e := ⟨false, .rev⟩) h
  | stepHiRev => exact exec_toInstr_inst (e := ⟨true, .rev⟩) h
  | enable | disable | setDirection | setReference | setSpeedPw | setSpeedRps | setSpeedSps | setSpeedRpm
  | contStart | contStop | swingStart | swingStop | seqWrite | seqSetLen | seqSetPeriod | seqStart
  | readReg => exact command_inst h rfl

theorem runCommand_inst {s t : State} (h : runCommand s = .next t) : t.inst = s.inst := by
  unfold runCommand at h
  split at h
  · rw [exec_inst h, acceptCommand_inst]
  · cases h
    rw [raiseFault_inst, acceptCommand_inst]

theorem playLanes_inst {lanes : List Nat} {s t : State} (h : playLanes lanes s = .next t) :
    t.inst = s.inst := by
  induction lanes generalizing s with
  | nil => cases h; rfl
  | cons a rest ih =>
    rw [playLanes] at h
    split at h
    · next u hu => rw [ih h, exec_inst hu]
    · cases h
    · cases h

theorem tick_inst {time : Time} {s t : State} (h : tick time s = .next t) : t.inst = s.inst := by
  unfold tick at h
  split at h
  · cases h
  · split at h
    · next u hu =>
      cases h
      rw [advanceIndex_inst, reorderTick_inst, playLanes_inst hu]
    · cases h
    · cases h

/-- No agent changes a parameter. -/
theorem perform_inst {g : Agent} {s t : State} (h : perform g s = .next t) : t.inst = s.inst := by
  cases g with
  | host => cases h; exact presentCommand_inst s
  | rst => cases h; exact resetEdge_inst s
  | cmd => exact runCommand_inst h
  | move =>
    simp only [perform] at h
    split at h
    · next m _ => cases h; exact moveStep_inst m s
    · cases h; rfl
    · cases h; rfl
  | seq =>
    simp only [perform] at h
    split at h
    · exact tick_inst h
    · cases h; rfl
  | swg a =>
    simp only [perform] at h
    split at h
    · next time _ => cases h; exact swingToggle_inst a time s
    · cases h; rfl
  | pwm a =>
    simp only [perform] at h
    split at h
    · next since wait _ => cases h; exact pwmEdge_inst a (since + wait) s
    · cases h; rfl
    · cases h; rfl

/-- Settles O39, by the cases of a step: an agent acts on the state the reset line holds, or time passes. -/
theorem parametersNeverChange : Obligations.ParametersNeverChange := by
  intro s t h
  rcases step_cases h with ⟨g, -, k, hg⟩ | ⟨-, rfl⟩
  · exact (perform_inst hg).trans (holdReset_inst s)
  · rw [passTime_inst, holdReset_inst]

end Sys2Proof.Machine
end

section
/-! What the step of an agent can be, said once, and what keeps the clock (10_state R57). -/

namespace Sys2Proof.Machine

/-! ### Commands and lanes: what they keep of any property -/

/-- A command keeps what its effect keeps when its checks pass, and what a fault keeps. -/
theorem command_keeps {P : State → Prop} {s t effect : State} {checks : List (Bool × Cause)}
    (hrun : command s checks effect = .next t) (hfault : ∀ c, P (raiseFault c s))
    (heffect : (∀ c ∈ checks, c.1 = false) → P effect) : P t := by
  rcases command_cases s checks effect with ⟨c, -, -, hc⟩ | ⟨hpass, hc⟩
  · cases hc.symm.trans hrun
    exact hfault c
  · cases hc.symm.trans hrun
    exact heffect hpass

/-- The lanes of a tick keep what the choice of a lane and the playing of an entry keep. -/
theorem playLanes_keeps {P : State → Prop} (hlane : ∀ u a, P u → P { u with lane := a })
    (hplay : ∀ u a e, P u → P (playEntry a e u)) {lanes : List Nat} {s t : State} (h : P s)
    (hrun : playLanes lanes s = .next t) : P t := by
  induction lanes generalizing s with
  | nil => cases hrun; exact h
  | cons a rest ih =>
    obtain ⟨e, he⟩ := fetchEntry_eq_toInstr s a
    rw [playLanes, he, exec_toInstr] at hrun
    exact ih (hplay _ a e (hlane s a h)) hrun

/-! ### The step of an agent -/

/-- All that the step of an agent can do to the state, with what stood before it. -/
inductive Acts (s : State) : Agent → State → Prop
  | nothing (g : Agent) : Acts s g s
  | present : Acts s .host (presentCommand s)
  | reset : Acts s .rst (resetEdge s)
  | command {i : Instr} {t : State} (hdecode : decodeCommand s.cmdWord s.cmdArg = .ok i)
      (hexec : exec i (acceptCommand s) = .next t) : Acts s .cmd t
  | illegal : Acts s .cmd (raiseFault .illegalCommand (acceptCommand s))
  | move {m : Move} (hmoving : s.cmdState = .moving m) : Acts s .move (moveStep m s)
  | tick {time : Time} {u : State} (hnext : s.seqNext = some time) (hidx : s.seqIdx.toNat < s.inst.seqDepth)
      (hlanes : playLanes s.lanes s = .next u) : Acts s .seq (advanceIndex time (reorderTick s u))
  | toggle {a : Nat} {time : Time} (hnext : (s.ax a).swingNext = some time) :
      Acts s (.swg a) (swingToggle a time s)
  | edge {a : Nat} {since : Time} {wait : Rat} (hpwm : (s.ax a).pwm = some ⟨since, some wait⟩) :
      Acts s (.pwm a) (pwmEdge a (since + wait) s)

theorem acts_of_runCommand {s t : State} (h : runCommand s = .next t) : Acts s .cmd t := by
  unfold runCommand at h
  split at h
  · next hdecode => exact .command hdecode h
  · cases h; exact .illegal

theorem acts_of_tick {s t : State} {time : Time} (hnext : s.seqNext = some time)
    (h : tick time s = .next t) : Acts s .seq t := by
  unfold tick at h
  split at h
  · cases h
  · next hidx =>
    split at h
    · next hlanes => cases h; exact .tick hnext (by omega) hlanes
    · cases h
    · cases h

theorem acts_of_perform {g : Agent} {s t : State} (h : perform g s = .next t) : Acts s g t := by
  cases g with
  | host => cases h; exact .present
  | rst => cases h; exact .reset
  | cmd => exact acts_of_runCommand h
  | move =>
    simp only [perform] at h
    split at h
    · next hmoving => cases h; exact .move hmoving
    · cases h; exact .nothing _
    · cases h; exact .nothing _
  | seq =>
    simp only [perform] at h
    split at h
    · next hnext => exact acts_of_tick hnext h
    · cases h; exact .nothing _
  | swg a =>
    simp only [perform] at h
    split at h
    · next hnext => cases h; exact .toggle hnext
    · cases h; exact .nothing _
  | pwm a =>
    simp only [perform] at h
    split at h
    · next hpwm => cases h; exact .edge hpwm
    · cases h; exact .nothing _
    · cases h; exact .nothing _

/-! ### What keeps the clock -/

@[simp] theorem playEntry_now (a : Nat) (e : Entry) (s : State) : (playEntry a e s).now = s.now := by
  rw [playEntry, writeDir_now, writeStep_now]

@[simp] theorem moveRel_now (a : Nat) (rel : Rat) (s : State) : (moveRel a rel s).now = s.now := by
  unfold moveRel
  split
  · exact respond_now 0 s
  · exact writeStep_now a true _

@[simp] theorem moveStep_now (m : Move) (s : State) : (moveStep m s).now = s.now := by
  unfold moveStep
  split
  · exact writeStep_now m.axis false _
  · unfold endLow
    split
    · rw [respond_now, updateRef_now]
    · exact (writeStep_now m.axis true _).trans (updateRef_now m.axis s)

@[simp] theorem advanceIndex_now (time : Time) (s : State) : (advanceIndex time s).now = s.now := by
  unfold advanceIndex; split <;> rfl

@[simp] theorem presentCommand_now (s : State) : (presentCommand s).now = s.now := by
  unfold presentCommand; split <;> rfl

@[simp] theorem resetEdge_now (s : State) : (resetEdge s).now = s.now := by
  unfold resetEdge
  split
  · rfl
  · split <;> rfl

@[simp] theorem holdReset_now (s : State) : (holdReset s).now = s.now := by
  unfold holdReset; split <;> rfl

/-- No instruction changes the clock. -/
theorem exec_now {i : Instr} {s t : State} (h : exec i s = .next t) : t.now = s.now := by
  have hcommand {effect : State} {checks : List (Bool × Cause)} (hrun : command s checks effect = .next t)
      (heffect : effect.now = s.now) : t.now = s.now :=
    command_keeps (P := fun u => u.now = s.now) hrun (fun c => raiseFault_now c s) fun _ => heffect
  have hentry {e : Entry} (hrun : exec e.toInstr s = .next t) : t.now = s.now := by
    cases (exec_toInstr e s).symm.trans hrun
    exact playEntry_now s.lane e s
  cases i with
  | goAbs axis mdeg | goRel axis mdeg => exact hcommand h (moveRel_now axis.toNat _ s)
  | stepLoFwd => exact hentry (e := ⟨false, .fwd⟩) h
  | stepHiFwd => exact hentry (e := ⟨true, .fwd⟩) h
  | stepLoRev => exact hentry (e := ⟨false, .rev⟩) h
  | stepHiRev => exact hentry (e := ⟨true, .rev⟩) h
  | enable | disable | setDirection | setReference | setSpeedPw | setSpeedRps | setSpeedSps | setSpeedRpm
  | contStart | contStop | swingStart | swingStop | seqWrite | seqSetLen | seqSetPeriod | seqStart
  | readReg => exact hcommand h rfl

theorem playLanes_now {lanes : List Nat} {s t : State} (h : playLanes lanes s = .next t) :
    t.now = s.now :=
  playLanes_keeps (P := fun u => u.now = s.now) (fun _ _ hu => hu)
    (fun u a e hu => (playEntry_now a e u).trans hu) rfl h

/-- No agent changes the clock: time passes only between their steps. -/
theorem Acts.now {g : Agent} {s t : State} (h : Acts s g t) : t.now = s.now := by
  cases h with
  | nothing => rfl
  | present => exact presentCommand_now s
  | reset => exact resetEdge_now s
  | command _ hexec => exact (exec_now hexec).trans (acceptCommand_now s)
  | illegal => rfl
  | move => exact moveStep_now _ s
  | tick _ _ hlanes => rw [advanceIndex_now, reorderTick_now, playLanes_now hlanes]
  | toggle => exact swingToggle_now _ _ s
  | edge => exact pwmEdge_now _ _ s

theorem now_le_passTime (s : State) : s.now ≤ (passTime s).now := by
  unfold passTime
  split
  · exact le_rfl
  · split
    · assumption
    · exact le_rfl

/-- Settles O40, by the cases of a step: an agent leaves the clock where it is, and the passage of time goes to
an event that is not before it. -/
theorem clockOnlyAdvances : Obligations.ClockOnlyAdvances := by
  intro s t h
  rcases step_cases h with ⟨g, -, k, hg⟩ | ⟨-, rfl⟩
  · have hnow : t.now = (holdReset s).now := (acts_of_perform hg).now
    rw [hnow, holdReset_now]
  · exact (holdReset_now s).ge.trans (now_le_passTime (holdReset s))

end Sys2Proof.Machine
end

section
/-! The invariant of the block (10_state R60): first what it says of one axis, then of all but the command port, then of
the whole block, each kept by every operation, and so by every step. -/

namespace Sys2Proof.Machine

/-! ### The reset state (10_state R61) -/

@[simp] theorem resetOf_ax (p : Config.Params) (a : Nat) : (State.resetOf p).ax a = Axis.reset p := by
  by_cases h : a < p.nAxes <;> simp [State.ax, State.resetOf, h]

/-- Nothing is scheduled in the reset state. -/
theorem resetOf_agentTime (p : Config.Params) (g : Agent) : (State.resetOf p).agentTime g = none := by
  cases g with
  | host | rst | cmd | move | seq => rfl
  | swg a => simp [State.agentTime, Axis.reset]
  | pwm a => simp [State.agentTime, Axis.reset]

/-- Settles O51: every axis of the reset state is an axis after reset. -/
theorem resetStateIsTheTable : Obligations.ResetStateIsTheTable := by
  intro p
  refine ⟨rfl, by simp [State.resetOf], fun a _ => ?_, rfl, rfl, rfl, rfl, rfl, rfl, rfl, rfl, rfl⟩
  rw [resetOf_ax]
  exact ⟨rfl, rfl, rfl, rfl, rfl, rfl, rfl, rfl, rfl, rfl, rfl, rfl, rfl, rfl, fun _ => rfl⟩

/-! ### One axis -/

theorem clampPw_ge (q : Rat) : 25 ≤ clampPw q := by
  simp only [clampPw, Config.pwMax, Config.pwFloor]; omega

theorem clampPw_le (q : Rat) : clampPw q ≤ 4294967295 := min_le_left _ _

/-- The reference after a step stays in the turn (41_discrete_motion R152). -/
theorem refAfterStep_range (ratio : Rat) (d : Dir) (ref : Rat) :
    0 ≤ refAfterStep ratio d ref ∧ refAfterStep ratio d ref < 360 := by
  cases d <;> exact ⟨wrap360_nonneg _, wrap360_lt _⟩

namespace Axis.Good
variable {p : Config.Params} {x : Axis}

theorem setEnable (h : x.Good p) (e : Bool) : { x with en := e, enPin := lvlEn p e }.Good p :=
  { h with enPin_eq := rfl }

theorem setRef (h : x.Good p) {r : Rat} (hr : 0 ≤ r ∧ r < 360) : { x with ref := r }.Good p :=
  { h with ref_nonneg := hr.1, ref_lt := hr.2 }

theorem storeWidth (h : x.Good p) (q : Rat) (live : Bool) :
    { x with pw := clampPw q, contPw := if live && x.cont then clampPw q else x.contPw }.Good p :=
  { h with
    pw_floor := clampPw_ge q
    pw_max := clampPw_le q
    cont_width := fun hcont => by
      dsimp only
      split
      · exact ⟨clampPw_ge q, clampPw_le q⟩
      · exact h.cont_width hcont }

theorem startGenerator (h : x.Good p) (level : Bool) (now : Time) (phase : Nat × Nat) :
    { x with
      contPw := x.pw
      cont := true
      stepPin := level
      pwm := some ⟨now, some (firstWait phase x.pw)⟩ }.Good p :=
  { h with
    cont_pwm := rfl
    cont_width := fun _ => ⟨h.pw_floor, h.pw_max⟩
    pwm_wait := fun _ hphase w hw => by
      cases hphase
      cases hw
      exact firstWait_pos phase (by have := h.pw_floor; omega) }

theorem stopGenerator (h : x.Good p) (keep : Bool) :
    { x with cont := false, pwm := none, stepPin := false, swing := x.swing && keep }.Good p :=
  { h with
    swing_ms := fun hs => h.swing_ms (Bool.and_eq_true_iff.mp hs).1
    swing_timer := fun hs => h.swing_timer (Bool.and_eq_true_iff.mp hs).1
    cont_pwm := rfl
    cont_width := nofun
    pwm_wait := nofun }

theorem startSwing (h : x.Good p) {ms : Nat} (hms : 1 ≤ ms ∧ ms ≤ 2147483647) (time : Time) :
    { x with swing := true, swingMs := ms, swingNext := some time }.Good p :=
  { h with
    swing_ms := fun _ => hms.1
    swing_ms_max := hms.2
    swing_timer := fun _ => rfl }

theorem cancelSwing (h : x.Good p) : { x with swing := false }.Good p :=
  { h with swing_ms := nofun, swing_timer := nofun }

theorem swingToggle (h : x.Good p) (d : Dir) (level : Bool) (time : Time) :
    { x with dir := d, dirPin := level, swingNext := some time }.Good p :=
  { h with swing_timer := fun _ => rfl }

theorem pwmEdge (h : x.Good p) (hpwm : x.pwm.isSome = true) (level : Bool) (time : Time) :
    { x with stepPin := level, pwm := some ⟨time, halfPeriod x.contPw⟩ }.Good p :=
  { h with
    cont_pwm := h.cont_pwm.trans hpwm
    pwm_wait := fun _ hphase _ hw => by
      cases hphase
      exact (halfPeriod_eq_some hw).1 }

end Axis.Good

theorem Axis.reset_good {p : Config.Params} (h : p.wf = true) : (Axis.reset p).Good p := by
  simp only [Config.Params.wf, Bool.and_eq_true, decide_eq_true_eq] at h
  obtain ⟨⟨⟨-, hfloor⟩, hmax⟩, -⟩ := h
  exact {
    ref_nonneg := le_rfl
    ref_lt := by norm_num [Axis.reset]
    pw_floor := hfloor
    pw_max := hmax
    seqLen_le := Nat.zero_le _
    enPin_eq := rfl
    swing_ms := nofun
    swing_ms_max := Nat.zero_le _
    swing_timer := nofun
    cont_pwm := rfl
    cont_width := nofun
    pwm_wait := nofun }

/-! ### What other agents rely on -/

/-- What `SEQ_START` checked of an axis stands: its drivers and its length. -/
structure Axis.SameRole (x y : Axis) : Prop where
  cont : y.cont = x.cont
  swing : y.swing = x.swing
  seqLen : y.seqLen = x.seqLen

/-- What a running move relies on stands as well: the width. -/
structure Axis.SameSetup (x y : Axis) : Prop extends Axis.SameRole x y where
  pw : y.pw = x.pw

theorem Axis.SameSetup.refl (x : Axis) : x.SameSetup x := ⟨⟨rfl, rfl, rfl⟩, rfl⟩

/-- The two states differ at most in their axes, the command port, the trace, the clock, the inputs and the model's
own fields. The operations' field lemmas give each clause. -/
structure SameBlock (s t : State) : Prop where
  inst : t.inst = s.inst := by simp
  length : t.axes.length = s.axes.length := by simp
  mem : t.mem = s.mem := by simp
  sequencer : SameSequencer s t := by constructor <;> simp

theorem SameBlock.lanes {s t : State} (h : SameBlock s t) : t.lanes = s.lanes := by
  rw [State.lanes, State.lanes, h.inst, h.sequencer.mask]

theorem SameBlock.seqOwns {s t : State} (h : SameBlock s t) (a : Nat) : t.seqOwns a = s.seqOwns a := by
  rw [State.seqOwns, State.seqOwns, h.sequencer.run, h.sequencer.mask]

theorem SameBlock.seqRead {s t : State} (h : SameBlock s t) (a i : Nat) : t.seqRead a i = s.seqRead a i := by
  rw [State.seqRead, State.seqRead, h.mem]

theorem contBusy_of_sameRole {s t : State} {a : Nat} (h : (s.ax a).SameRole (t.ax a)) :
    t.contBusy a = s.contBusy a := by
  rw [State.contBusy, State.contBusy, h.cont, h.swing]

/-- While a sequence runs, an axis takes part in it exactly when it is owned. -/
theorem seqOwns_of_mem_lanes {s : State} {a : Nat} (hrun : s.seqRun = true) (ha : a ∈ s.lanes) :
    s.seqOwns a = true := by
  rw [State.seqOwns, hrun, (mem_lanesOf.mp ha).2]; rfl

theorem State.SeqGood.of_same {s t : State} (h : s.SeqGood) (same : SameBlock s t)
    (role : ∀ a ∈ s.lanes, (s.ax a).SameRole (t.ax a)) : t.SeqGood where
  period := same.sequencer.period ▸ h.period
  mask_ne := same.sequencer.mask ▸ h.mask_ne
  idx_lt := same.sequencer.idx ▸ same.sequencer.fin ▸ h.idx_lt
  timer := same.sequencer.next ▸ h.timer
  not_busy a ha := by
    rw [same.lanes] at ha
    rw [contBusy_of_sameRole (role a ha)]
    exact h.not_busy a ha
  long_enough a ha := by
    rw [same.lanes] at ha
    rw [same.sequencer.fin, (role a ha).seqLen]
    exact h.long_enough a ha
  written a ha i hi := by
    rw [same.lanes] at ha
    rw [same.sequencer.fin] at hi
    rw [same.seqRead]
    exact h.written a ha i hi

theorem State.MoveGood.of_same {s t : State} {m : Move} (h : s.MoveGood m) (same : SameBlock s t)
    (setup : (s.ax m.axis).SameSetup (t.ax m.axis)) : t.MoveGood m where
  axis_lt := same.inst ▸ h.axis_lt
  remaining_pos := h.remaining_pos
  width_eq := h.width_eq.trans setup.pw.symm
  not_busy := (contBusy_of_sameRole setup.toSameRole).trans h.not_busy
  not_seq := (same.seqOwns m.axis).trans h.not_seq

/-! ### The block but for the command port -/

/-- The cause codes of a valid response and of `FAULT_STICKY` (60_exceptions R260). -/
def State.CodesGood (s : State) : Prop :=
  (s.rspValid = true → s.rspStatus.toNat ≤ 11) ∧ s.faultSticky.toNat ≤ 11

/-- What the invariant says of all but `CMD_STATE`: it holds between a command's acceptance and its response too. -/
structure State.BlockGood (s : State) : Prop where
  inst_wf : s.inst.wf = true
  axes_length : s.axes.length = s.inst.nAxes
  axis_good : ∀ a, a < s.inst.nAxes → (s.ax a).Good s.inst
  mem_wf : Memory.wf s.mem = true
  mem_in_range : ∀ c ∈ s.mem, c.1 / 65536 < s.inst.nAxes ∧ c.1 % 65536 < s.inst.seqDepth
  mask_fits : maskNamesNoAxis s.inst.nAxes s.seqMask = false
  end_le : s.seqEnd.toNat ≤ s.inst.seqDepth
  seq_good : s.seqRun = true → s.SeqGood
  codes : s.CodesGood

theorem State.Inv.blockGood {s : State} (h : s.Inv) : s.BlockGood := { h with }

theorem State.BlockGood.inv {s : State} (h : s.BlockGood) (hmove : ∀ m, s.cmdState = .moving m → s.MoveGood m)
    (hbusy : s.cmdState ≠ .busy) : s.Inv :=
  { h with move_good := hmove, not_busy := hbusy }

namespace State.BlockGood
variable {s t : State}

/-- Axes may change within their ranges while those that the sequencer owns keep what it checked. -/
theorem of_axes (h : s.BlockGood) (same : SameBlock s t) (codes : t.CodesGood)
    (good : ∀ a, a < s.inst.nAxes → (t.ax a).Good s.inst)
    (role : ∀ a, s.seqOwns a = true → (s.ax a).SameRole (t.ax a)) : t.BlockGood where
  inst_wf := same.inst ▸ h.inst_wf
  axes_length := by rw [same.length, same.inst, h.axes_length]
  axis_good := by rw [same.inst]; exact good
  mem_wf := same.mem ▸ h.mem_wf
  mem_in_range := by rw [same.mem, same.inst]; exact h.mem_in_range
  mask_fits := by rw [same.inst, same.sequencer.mask]; exact h.mask_fits
  end_le := by rw [same.inst, same.sequencer.fin]; exact h.end_le
  seq_good hrun := by
    rw [same.sequencer.run] at hrun
    exact (h.seq_good hrun).of_same same fun a ha => role a (seqOwns_of_mem_lanes hrun ha)
  codes := codes

/-- The same for a change of one axis: it keeps the ranges, and, where the sequencer owns the axis, its role. -/
theorem of_modAx {a : Nat} {f : Axis → Axis} (h : s.BlockGood) (same : SameBlock s t) (codes : t.CodesGood)
    (hax : ∀ b, t.ax b = (modAx a f s).ax b) (good : (s.ax a).Good s.inst → (f (s.ax a)).Good s.inst)
    (role : s.seqOwns a = true → (s.ax a).SameRole (f (s.ax a))) : t.BlockGood := by
  refine h.of_axes same codes (fun b hb => ?_) (fun b hb => ?_)
  · rw [hax, ax_modAx]
    split
    · next hba => obtain ⟨rfl, -⟩ := hba; exact good (h.axis_good b hb)
    · exact h.axis_good b hb
  · rw [hax, ax_modAx]
    split
    · next hba => obtain ⟨rfl, -⟩ := hba; exact role hb
    · exact ⟨rfl, rfl, rfl⟩

/-- The invariant's `CMD_STATE` aside, nothing but the codes depends on the port. -/
theorem of_sameAxes (h : s.BlockGood) (same : SameBlock s t) (codes : t.CodesGood)
    (hax : ∀ a, t.ax a = s.ax a) : t.BlockGood :=
  h.of_axes same codes (fun a ha => hax a ▸ h.axis_good a ha) fun a _ => hax a ▸ ⟨rfl, rfl, rfl⟩

end State.BlockGood

/-! ### The command port -/

theorem Cause.code_le (c : Cause) : c.code.toNat ≤ 11 := by cases c <;> decide

theorem stickyAfter_le {old code : BitVec 4} (hold : old.toNat ≤ 11) (hcode : code.toNat ≤ 11) :
    (stickyAfter old code).toNat ≤ 11 := by
  unfold stickyAfter
  split
  · exact hcode
  · exact hold

section
variable {s t : State}

theorem acceptCommand_blockGood (h : s.BlockGood) : (acceptCommand s).BlockGood :=
  h.of_sameAxes {} ⟨nofun, h.codes.2⟩ fun _ => rfl

theorem respond_inv (h : s.BlockGood) (d : Word) : (respond d s).Inv :=
  have hblock : (respond d s).BlockGood :=
    h.of_sameAxes {} ⟨fun _ => Nat.zero_le _, h.codes.2⟩ fun _ => rfl
  hblock.inv nofun nofun

theorem raiseFault_inv (h : s.BlockGood) (c : Cause) : (raiseFault c s).Inv :=
  have hblock : (raiseFault c s).BlockGood :=
    h.of_sameAxes {} ⟨fun _ => c.code_le, stickyAfter_le h.codes.2 c.code_le⟩ fun _ => rfl
  hblock.inv nofun nofun

/-- A command ends in a good state when its effect does, where its checks pass. -/
theorem command_inv {checks : List (Bool × Cause)} {effect : State} (h : s.BlockGood)
    (hrun : command s checks effect = .next t) (heffect : (∀ c ∈ checks, c.1 = false) → effect.Inv) : t.Inv :=
  command_keeps hrun (raiseFault_inv h) heffect

/-! ### The operations of the per-axis commands -/

theorem setEnable_blockGood (h : s.BlockGood) (a : Nat) (e : Bool) : (setEnable a e s).BlockGood :=
  h.of_modAx {} h.codes (ax_setEnable a e s) (fun hx => hx.setEnable e) fun _ => ⟨rfl, rfl, rfl⟩

theorem setDir_blockGood (h : s.BlockGood) (a : Nat) (d : Dir) : (setDir a d s).BlockGood :=
  h.of_modAx {} h.codes (ax_setDir a d s) (fun hx => { hx with }) fun _ => ⟨rfl, rfl, rfl⟩

theorem setRef_blockGood (h : s.BlockGood) (a : Nat) {r : Rat} (hr : 0 ≤ r ∧ r < 360) :
    (setRef a r s).BlockGood :=
  h.of_modAx {} h.codes (ax_setRef a r s) (fun hx => hx.setRef hr) fun _ => ⟨rfl, rfl, rfl⟩

theorem storeWidth_blockGood (h : s.BlockGood) (a : Nat) (q : Rat) : (storeWidth a q s).BlockGood :=
  h.of_modAx {} h.codes (ax_storeWidth a q s) (fun hx => hx.storeWidth q s.inst.livePwmUpdate)
    fun _ => ⟨rfl, rfl, rfl⟩

theorem startGenerator_blockGood (h : s.BlockGood) {a : Nat} (hfree : s.seqOwns a = false) :
    (startGenerator a s).BlockGood :=
  h.of_modAx {} h.codes (ax_startGenerator a s) (fun hx => hx.startGenerator _ s.now _)
    fun howns => absurd howns (by simp [hfree])

theorem stopGenerator_blockGood (h : s.BlockGood) {a : Nat} (hfree : s.seqOwns a = false) :
    (stopGenerator a s).BlockGood :=
  h.of_modAx {} h.codes (ax_stopGenerator a s) (fun hx => hx.stopGenerator _)
    fun howns => absurd howns (by simp [hfree])

theorem startSwing_blockGood (h : s.BlockGood) {a ms : Nat} (hfree : s.seqOwns a = false)
    (hms : 1 ≤ ms ∧ ms ≤ 2147483647) : (startSwing a ms s).BlockGood :=
  h.of_modAx {} h.codes (ax_startSwing a ms s) (fun hx => hx.startSwing hms _)
    fun howns => absurd howns (by simp [hfree])

theorem cancelSwing_blockGood (h : s.BlockGood) {a : Nat} (hfree : s.seqOwns a = false) :
    (cancelSwing a s).BlockGood :=
  h.of_modAx {} h.codes (ax_cancelSwing a s) (fun hx => hx.cancelSwing)
    fun howns => absurd howns (by simp [hfree])

/-! ### The loading commands of the sequencer, while none runs -/

theorem setLen_blockGood (h : s.BlockGood) (a : Nat) {len : Nat} (hlen : len ≤ s.inst.seqDepth)
    (hstill : s.seqRun = false) : (modAx a (fun x => { x with seqLen := len }) s).BlockGood :=
  h.of_modAx {} h.codes (fun _ => rfl) (fun hx => { hx with seqLen_le := hlen })
    fun howns => absurd howns (by simp [State.seqOwns, hstill])

theorem setPeriod_blockGood (h : s.BlockGood) (period : Word) (hstill : s.seqRun = false) :
    { s with seqPeriod := period }.BlockGood :=
  { h with seq_good := fun hrun => absurd hrun (by simp [hstill]) }

/-- The place of an entry tells its axis. -/
theorem cellOf_div {i : Nat} (hi : i < 65536) (a : Nat) : cellOf a i / 65536 = a := by
  unfold cellOf; omega

/-- The place of an entry tells its index. -/
theorem cellOf_mod {i : Nat} (hi : i < 65536) (a : Nat) : cellOf a i % 65536 = i := by
  unfold cellOf; omega

theorem seqStore_blockGood (h : s.BlockGood) {a i : Nat} (ha : a < s.inst.nAxes) (hi : i < s.inst.seqDepth)
    (hindex : i < 65536) (e : Entry) (hstill : s.seqRun = false) : (seqStore a i e s).BlockGood :=
  { h with
    mem_wf := seqStore_wf h.mem_wf a i e
    mem_in_range := fun c hc => by
      rcases mem_memWrite hc with rfl | hc
      · exact ⟨(cellOf_div hindex a).trans_lt ha, (cellOf_mod hindex a).trans_lt hi⟩
      · exact h.mem_in_range c hc
    seq_good := fun hrun => absurd (hstill.symm.trans hrun) nofun }

/-! ### The start of a sequence -/

/-- What passing the checks of `SEQ_START` says (44_sequencer R216). -/
structure SeqStartable (mask : Word) (s : State) : Prop where
  fits : maskNamesNoAxis s.inst.nAxes mask = false
  still : ∀ a ∈ lanesOf s.inst.nAxes mask, s.contBusy a = false
  period : s.seqPeriod ≠ 0
  mask_ne : mask ≠ 0
  shortest_pos : 0 < s.shortest (lanesOf s.inst.nAxes mask)
  written : ∀ a ∈ lanesOf s.inst.nAxes mask, ∀ i < s.shortest (lanesOf s.inst.nAxes mask),
    (s.seqRead a i).isSome = true

theorem seqStartable_of_checks {axis : Byte} {mask : Word}
    (hpass : ∀ c ∈ seqStartChecks axis mask s, c.1 = false) : SeqStartable mask s := by
  simp only [seqStartChecks, List.forall_mem_cons] at hpass
  obtain ⟨-, hfits, -, hstill, hperiod, hmask, hlen, -, hwritten, -⟩ := hpass
  refine ⟨hfits, ?_, of_decide_eq_false hperiod, of_decide_eq_false hmask,
    Nat.pos_of_ne_zero (of_decide_eq_false hlen), ?_⟩
  · simpa using hstill
  · simpa [State.playsUnwritten, Option.isSome_iff_ne_none] using hwritten

theorem shortest_le_depth (h : s.BlockGood) {mask : Word}
    (hpos : 0 < s.shortest (lanesOf s.inst.nAxes mask)) :
    s.shortest (lanesOf s.inst.nAxes mask) ≤ s.inst.seqDepth := by
  have hne : lanesOf s.inst.nAxes mask ≠ [] := fun hnil => by simp [hnil, State.shortest] at hpos
  obtain ⟨a, ha, hshortest⟩ := shortest_mem s hne
  exact hshortest ▸ (h.axis_good a (mem_lanesOf.mp ha).1).seqLen_le

theorem seqDepth_le {p : Config.Params} (h : p.wf = true) : p.seqDepth ≤ 65535 := by
  simp only [Config.Params.wf, Bool.and_eq_true, decide_eq_true_eq] at h
  obtain ⟨⟨⟨⟨-, hdepth⟩, -⟩, -⟩, -⟩ := h
  exact hdepth

/-- `SEQ_END` holds the shortest length without loss. -/
theorem seqStartEffect_seqEnd_toNat (h : s.BlockGood) {mask : Word} (hstart : SeqStartable mask s) :
    (seqStartEffect mask s).seqEnd.toNat = s.shortest (lanesOf s.inst.nAxes mask) := by
  have hdepth := seqDepth_le h.inst_wf
  have hle := shortest_le_depth h hstart.shortest_pos
  rw [seqStartEffect_seqEnd, BitVec.toNat_ofNat, Nat.mod_eq_of_lt (by omega)]

theorem seqStartEffect_seqGood (h : s.BlockGood) {mask : Word} (hstart : SeqStartable mask s) :
    (seqStartEffect mask s).SeqGood where
  period := by
    have hne : s.seqPeriod.toNat ≠ 0 := fun hzero => hstart.period (BitVec.eq_of_toNat_eq hzero)
    rw [seqStartEffect_seqPeriod]; omega
  mask_ne := hstart.mask_ne
  idx_lt := by
    rw [seqStartEffect_seqEnd_toNat h hstart]
    exact hstart.shortest_pos
  timer := rfl
  not_busy := hstart.still
  long_enough a ha := by
    rw [seqStartEffect_seqEnd_toNat h hstart]
    exact shortest_le s ha
  written a ha i hi := by
    rw [seqStartEffect_seqEnd_toNat h hstart] at hi
    exact hstart.written a ha i hi

theorem seqStartEffect_blockGood (h : s.BlockGood) {mask : Word} (hstart : SeqStartable mask s) :
    (seqStartEffect mask s).BlockGood :=
  { h with
    mask_fits := hstart.fits
    end_le := by
      rw [seqStartEffect_seqEnd_toNat h hstart]
      exact shortest_le_depth h hstart.shortest_pos
    seq_good := fun _ => seqStartEffect_seqGood h hstart }

end

/-! ### The whole block, changed by another agent than the command executor -/

namespace State.Inv
variable {s t : State}

/-- Axes may change within their ranges while their setup stands. -/
theorem of_axes (h : s.Inv) (same : SameBlock s t) (port : t.cmdState = s.cmdState) (codes : t.CodesGood)
    (good : ∀ a, a < s.inst.nAxes → (t.ax a).Good s.inst) (setup : ∀ a, (s.ax a).SameSetup (t.ax a)) : t.Inv := by
  have hblock := h.blockGood.of_axes same codes good fun a _ => (setup a).toSameRole
  refine hblock.inv (fun m hm => ?_) (port ▸ h.not_busy)
  exact (h.move_good m (port ▸ hm)).of_same same (setup m.axis)

/-- The same for a change of one axis. -/
theorem of_modAx {a : Nat} {f : Axis → Axis} (h : s.Inv) (same : SameBlock s t)
    (port : t.cmdState = s.cmdState) (codes : t.CodesGood) (hax : ∀ b, t.ax b = (modAx a f s).ax b)
    (good : (s.ax a).Good s.inst → (f (s.ax a)).Good s.inst) (setup : (s.ax a).SameSetup (f (s.ax a))) :
    t.Inv := by
  refine h.of_axes same port codes (fun b hb => ?_) (fun b => ?_)
  · rw [hax, ax_modAx]
    split
    · next hba => obtain ⟨rfl, -⟩ := hba; exact good (h.axis_good b hb)
    · exact h.axis_good b hb
  · rw [hax, ax_modAx]
    split
    · next hba => obtain ⟨rfl, -⟩ := hba; exact setup
    · exact .refl _

/-- Only the trace, the clock, the inputs and the model's own fields change. -/
theorem of_sameAxes (h : s.Inv) (same : SameBlock s t) (port : t.cmdState = s.cmdState) (codes : t.CodesGood)
    (hax : ∀ a, t.ax a = s.ax a) : t.Inv :=
  h.of_axes same port codes (fun a ha => hax a ▸ h.axis_good a ha) fun a => hax a ▸ .refl _

end State.Inv

section
variable {s t : State}

theorem writeStep_inv (h : s.Inv) (a : Nat) (l : Bool) : (writeStep a l s).Inv := by
  unfold writeStep
  split
  · exact h
  · exact h.of_modAx {} rfl h.codes (ax_driveStep a l s) (fun hx => { hx with }) ⟨⟨rfl, rfl, rfl⟩, rfl⟩

theorem writeDir_inv (h : s.Inv) (a : Nat) (l : Bool) : (writeDir a l s).Inv :=
  h.of_modAx {} rfl h.codes (ax_writeDir a l s) (fun hx => { hx with }) ⟨⟨rfl, rfl, rfl⟩, rfl⟩

theorem updateRef_inv (h : s.Inv) (a : Nat) : (updateRef a s).Inv :=
  h.of_modAx {} rfl h.codes (ax_updateRef a s) (fun hx => hx.setRef (refAfterStep_range _ _ _))
    ⟨⟨rfl, rfl, rfl⟩, rfl⟩

theorem swingToggle_inv (h : s.Inv) (a : Nat) (time : Time) : (swingToggle a time s).Inv :=
  h.of_modAx {} rfl h.codes (ax_swingToggle a time s) (fun hx => hx.swingToggle _ _ _) ⟨⟨rfl, rfl, rfl⟩, rfl⟩

theorem pwmEdge_inv (h : s.Inv) {a : Nat} (hpwm : (s.ax a).pwm.isSome = true) (time : Time) :
    (pwmEdge a time s).Inv :=
  h.of_modAx {} rfl h.codes (ax_pwmEdge a time s) (fun hx => hx.pwmEdge hpwm _ _) ⟨⟨rfl, rfl, rfl⟩, rfl⟩

theorem presentCommand_inv (h : s.Inv) : (presentCommand s).Inv := by
  unfold presentCommand
  split
  · exact h
  · exact h.of_sameAxes {} rfl ⟨nofun, h.codes.2⟩ fun _ => rfl

theorem passTime_inv (h : s.Inv) : (passTime s).Inv := by
  unfold passTime
  split
  · exact h
  · split
    · exact h.of_sameAxes {} rfl h.codes fun _ => rfl
    · exact h

/-! ### Moves -/

theorem moveRel_inv (h : s.BlockGood) {a : Nat} (ha : a < s.inst.nAxes) (hfree : s.seqOwns a = false)
    (hstill : s.contBusy a = false) (rel : Rat) : (moveRel a rel s).Inv := by
  unfold moveRel
  split
  · exact respond_inv h 0
  · next hsteps =>
    refine writeStep_inv ?_ a true
    refine State.BlockGood.inv (h.of_sameAxes {} h.codes fun _ => rfl) ?_ nofun
    rintro m ⟨⟩
    exact ⟨ha, Nat.pos_of_ne_zero hsteps, rfl, hstill, hfree⟩

/-- The move record may go on to another phase, with steps left. -/
theorem nextPhase_inv (h : s.Inv) {m m' : Move} (hmoving : s.cmdState = .moving m) (haxis : m'.axis = m.axis)
    (hwidth : m'.width = m.width) (hleft : 1 ≤ m'.remaining) : { s with cmdState := .moving m' }.Inv := by
  have hgood := h.move_good m hmoving
  refine State.BlockGood.inv (h.blockGood.of_sameAxes {} h.codes fun _ => rfl) ?_ nofun
  rintro _ ⟨⟩
  exact {
    axis_lt := haxis ▸ hgood.axis_lt
    remaining_pos := hleft
    width_eq := by rw [hwidth, haxis]; exact hgood.width_eq
    not_busy := haxis ▸ hgood.not_busy
    not_seq := haxis ▸ hgood.not_seq }

theorem moveStep_inv (h : s.Inv) {m : Move} (hmoving : s.cmdState = .moving m) : (moveStep m s).Inv := by
  unfold moveStep
  split
  · refine writeStep_inv ?_ m.axis false
    exact nextPhase_inv h hmoving rfl rfl (h.move_good m hmoving).remaining_pos
  · unfold endLow
    split
    · exact respond_inv (updateRef_inv h m.axis).blockGood 0
    · next hleft =>
      refine writeStep_inv ?_ m.axis true
      exact nextPhase_inv (updateRef_inv h m.axis) hmoving rfl rfl (Nat.pos_of_ne_zero hleft)

/-! ### Ticks -/

theorem playEntry_inv (h : s.Inv) (a : Nat) (e : Entry) : (playEntry a e s).Inv :=
  writeDir_inv (writeStep_inv h a e.pulse) a _

theorem playLanes_inv (h : s.Inv) {lanes : List Nat} (hrun : playLanes lanes s = .next t) : t.Inv :=
  playLanes_keeps (P := State.Inv) (fun _ _ hu => hu.of_sameAxes {} rfl hu.codes fun _ => rfl)
    (fun _ a e hu => playEntry_inv hu a e) h hrun

/-- An index that does not reach `SEQ_END` stays below it. -/
theorem succ_lt_of_ne {i e : BitVec 16} (hlt : i.toNat < e.toNat) (hne : i + 1 ≠ e) :
    (i + 1).toNat < e.toNat := by
  bv_omega

/-- The index advances below `SEQ_END`, or the sequence ends (44_sequencer R223, R225). -/
theorem advanceIndex_inv (h : s.Inv) (time : Time) : (advanceIndex time s).Inv := by
  unfold advanceIndex
  split
  · exact { h with
      seq_good := nofun
      move_good := fun m hm =>
        { h.move_good m hm with not_seq := by simp [State.seqOwns] } }
  · next hne => exact { h with
      seq_good := fun hrun =>
        { h.seq_good hrun with idx_lt := succ_lt_of_ne (h.seq_good hrun).idx_lt hne, timer := rfl }
      move_good := fun m hm => { h.move_good m hm with } }

theorem tick_inv (h : s.Inv) {lanes : List Nat} (hrun : playLanes lanes s = .next t) (time : Time) :
    (advanceIndex time (reorderTick s t)).Inv :=
  have ht := playLanes_inv h hrun
  have hreordered : (reorderTick s t).Inv := ht.of_sameAxes {} rfl ht.codes fun _ => rfl
  advanceIndex_inv hreordered time

/-! ### Reset -/

theorem resetOf_inv {p : Config.Params} (h : p.wf = true) : (State.resetOf p).Inv where
  inst_wf := h
  axes_length := by simp [State.resetOf]
  axis_good a _ := (resetOf_ax p a).symm ▸ Axis.reset_good h
  mem_wf := rfl
  mem_in_range := nofun
  mask_fits := maskNamesNoAxis_eq_false.mpr fun a _ => BitVec.getLsbD_zero
  end_le := Nat.zero_le _
  seq_good := nofun
  move_good := nofun
  not_busy := nofun
  codes := ⟨nofun, Nat.zero_le _⟩

/-- Settles O41: the reset state is good field by field, and schedules nothing. -/
theorem resetSatisfiesTheInvariant : Obligations.ResetSatisfiesTheInvariant := by
  intro p hp
  refine ⟨resetOf_inv hp, fun g time _ _ _ htime => ?_⟩
  rw [resetOf_agentTime] at htime
  cases htime

theorem resetBlock_inv (h : s.inst.wf = true) : (resetBlock s).Inv :=
  have hreset := resetOf_inv h
  hreset.of_sameAxes ⟨rfl, rfl, rfl, ⟨rfl, rfl, rfl, rfl, rfl, rfl⟩⟩ rfl hreset.codes fun _ => rfl

theorem resetEdge_inv (h : s.Inv) : (resetEdge s).Inv := by
  unfold resetEdge
  split
  · exact h
  · split
    · exact resetBlock_inv h.inst_wf
    · exact h.of_sameAxes {} rfl h.codes fun _ => rfl

theorem holdReset_inv (h : s.Inv) : (holdReset s).Inv := by
  unfold holdReset
  split
  · exact resetBlock_inv h.inst_wf
  · exact h

/-! ### Commands -/

theorem fitsSigned_toInt (arg : Word) : fitsSigned arg.toInt = true := by
  have hlow := BitVec.le_toInt arg
  have hhigh := BitVec.toInt_lt (x := arg)
  simp only [fitsSigned, Bool.and_eq_true, decide_eq_true_eq]
  omega

/-- A command word decodes to a command within its operand's range (30_encoding R93, R97). -/
theorem decodeCommand_wf {word arg : Word} {i : Instr} (h : decodeCommand word arg = .ok i) :
    i.isEntry = false ∧ i.wf = true := by
  have hunsigned : fitsUnsigned arg.toNat = true := decide_eq_true (by have := arg.isLt; omega)
  unfold decodeCommand at h
  split at h
  · cases h
  · unfold decodeOp at h
    split at h <;> cases h
    all_goals exact ⟨rfl, by simp [Instr.wf, fitsSigned_toInt, hunsigned]⟩

theorem axis_lt_of_check {axis : Byte} (h : (axisCheck s axis).1 = false) : axis.toNat < s.inst.nAxes :=
  not_le.mp (of_decide_eq_false h)

/-- Every command keeps what holds between its acceptance and its response, and its answer, or the start of its
move, makes the whole invariant of it. -/
theorem exec_inv {i : Instr} (hentry : i.isEntry = false) (hwf : i.wf = true) (h : s.BlockGood)
    (hrun : exec i s = .next t) : t.Inv := by
  cases i with
  | enable axis | disable axis =>
    exact command_inv h hrun fun _ => respond_inv (setEnable_blockGood h axis.toNat _) 0
  | setDirection axis dir rsv =>
    exact command_inv h hrun fun _ => respond_inv (setDir_blockGood h axis.toNat dir) 0
  | setReference axis mdeg =>
    exact command_inv h hrun fun _ =>
      respond_inv (setRef_blockGood h axis.toNat ⟨wrap360_nonneg _, wrap360_lt _⟩) 0
  | setSpeedPw axis | setSpeedSps axis | setSpeedRps axis | setSpeedRpm axis =>
    exact command_inv h hrun fun _ => respond_inv (storeWidth_blockGood h axis.toNat _) 0
  | goRel axis mdeg | goAbs axis mdeg =>
    exact command_inv h hrun fun hpass => moveRel_inv h (axis_lt_of_check (hpass (axisCheck s axis) (by simp)))
      (hpass (seqOwnsCheck s axis) (by simp)) (hpass (contBusyCheck s axis) (by simp)) _
  | contStart axis =>
    exact command_inv h hrun fun hpass =>
      respond_inv (startGenerator_blockGood h (hpass (seqOwnsCheck s axis) (by simp))) 0
  | contStop axis =>
    exact command_inv h hrun fun hpass =>
      respond_inv (stopGenerator_blockGood h (hpass (seqOwnsCheck s axis) (by simp))) 0
  | swingStart axis period =>
    refine command_inv h hrun fun hpass => ?_
    have hfree : s.seqOwns axis.toNat = false := hpass (seqOwnsCheck s axis) (by simp)
    have hperiod := of_decide_eq_false (hpass (decide (period ≤ 0), .zeroPeriod) (by simp))
    have hms : 1 ≤ period.toNat ∧ period.toNat ≤ 2147483647 := by
      simp only [Instr.wf, fitsSigned, Bool.and_eq_true, decide_eq_true_eq] at hwf
      omega
    exact respond_inv (startSwing_blockGood (startGenerator_blockGood h hfree) hfree hms) 0
  | swingStop axis =>
    refine command_inv h hrun fun hpass => ?_
    have hfree : s.seqOwns axis.toNat = false := hpass (seqOwnsCheck s axis) (by simp)
    exact respond_inv (stopGenerator_blockGood (cancelSwing_blockGood h hfree) hfree) 0
  | seqWrite axis index entry rsv =>
    refine command_inv h hrun fun hpass => ?_
    have haxis := axis_lt_of_check (hpass (axisCheck s axis) (by simp))
    have hindex := of_decide_eq_false (hpass (decide (s.inst.seqDepth ≤ index.toNat), .seqRange) (by simp))
    exact respond_inv (seqStore_blockGood h haxis (not_le.mp hindex) index.isLt entry
      (hpass (seqRunCheck s) (by simp))) 0
  | seqSetLen axis len =>
    refine command_inv h hrun fun hpass => ?_
    have hlen := of_decide_eq_false (hpass (decide (s.inst.seqDepth < len), .seqRange) (by simp))
    exact respond_inv (setLen_blockGood h axis.toNat (not_lt.mp hlen) (hpass (seqRunCheck s) (by simp))) 0
  | seqSetPeriod axis period =>
    exact command_inv h hrun fun hpass =>
      respond_inv (setPeriod_blockGood h (BitVec.ofInt 32 period) (hpass (seqRunCheck s) (by simp))) 0
  | seqStart axis mask =>
    exact command_inv h hrun fun hpass =>
      respond_inv (seqStartEffect_blockGood h (seqStartable_of_checks hpass)) 0
  | readReg axis reg rsv => exact command_inv h hrun fun _ => respond_inv h _
  | stepLoFwd | stepHiFwd | stepLoRev | stepHiRev => cases hentry

/-! ### Every step -/

/-- No agent leaves the invariant, due or not. -/
theorem Acts.inv {g : Agent} (hact : Acts s g t) (h : s.Inv) : t.Inv := by
  cases hact with
  | nothing => exact h
  | present => exact presentCommand_inv h
  | reset => exact resetEdge_inv h
  | command hdecode hexec =>
    obtain ⟨hentry, hwf⟩ := decodeCommand_wf hdecode
    exact exec_inv hentry hwf (acceptCommand_blockGood h.blockGood) hexec
  | illegal => exact raiseFault_inv (acceptCommand_blockGood h.blockGood) _
  | move hmoving => exact moveStep_inv h hmoving
  | tick _ _ hlanes => exact tick_inv h hlanes _
  | toggle => exact swingToggle_inv h _ _
  | edge hpwm => exact pwmEdge_inv h (by rw [hpwm]; rfl) _

/-- Settles O42, by the cases of a step: the reset line is applied, then one agent acts, or time passes. -/
theorem stepKeepsTheInvariant : Obligations.StepKeepsTheInvariant := by
  intro s t h hstep
  have hheld := holdReset_inv h
  rcases step_cases hstep with ⟨g, -, k, hg⟩ | ⟨-, rfl⟩
  · exact (acts_of_perform hg).inv (hheld.of_sameAxes {} rfl hheld.codes fun _ => rfl)
  · exact passTime_inv hheld

/-! ### Every reachable state -/

theorem Reaches.inv (hreach : Reaches s t) (h : s.Inv) : t.Inv := by
  induction hreach with
  | refl => exact h
  | tail _ hstep ih => exact stepKeepsTheInvariant _ _ ih hstep

theorem still_of_contBusy {a : Nat} (h : s.contBusy a = false) : (s.ax a).cont = false ∧ (s.ax a).swing = false :=
  Bool.or_eq_false_iff.mp h

/-- Every axis of the mask takes part: no bit of it names an axis the block does not have. -/
theorem mem_lanes_of_mask (h : s.Inv) {a : Nat} (ha : s.seqMask.getLsbD a = true) : a ∈ s.lanes := by
  refine mem_lanesOf.mpr ⟨?_, ha⟩
  by_contra hout
  exact absurd (maskNamesNoAxis_eq_false.mp h.mask_fits a (not_lt.mp hout)) (by simp [ha])

/-- Settles O45: the invariant holds at reset under any inputs to come, so in every reachable state, and it says
R60's clauses. -/
theorem reachableStatesSatisfyR60 : Obligations.ReachableStatesSatisfyR60 := by
  intro p commands resets s hp hreach
  have hreset := resetOf_inv hp
  have h : s.Inv := hreach.inv (hreset.of_sameAxes {} rfl hreset.codes fun _ => rfl)
  refine ⟨fun a ha => ?_, fun hrun => ?_, fun m hm => still_of_contBusy (h.move_good m hm).not_busy⟩
  · have hgood := h.axis_good a ha
    exact ⟨hgood.ref_nonneg, hgood.ref_lt, hgood.pw_floor, hgood.pw_max, hgood.swing_ms⟩
  · have hseq := h.seq_good hrun
    exact ⟨hseq.period, hseq.mask_ne, hseq.idx_lt,
      fun a ha => still_of_contBusy (hseq.not_busy a (mem_lanes_of_mask h ha))⟩

end

end Sys2Proof.Machine
end

section
/-! The nominal schedule (20_memory R80): what an agent's next step waits for is never before the clock. First what this
says field by field, then every operation, and so every agent, keeps it; and how one step is taken. -/

namespace Sys2Proof.Machine

/-! ### The schedule, field by field -/

/-- Nothing that runs on the axis is scheduled before `now`: neither the swing timer's toggle nor the generator's
edge. -/
structure Axis.Ahead (now : Time) (x : Axis) : Prop where
  toggle : x.swing = true → ∀ t, x.swingNext = some t → now ≤ t
  edge : x.cont = true → ∀ p, x.pwm = some p → ∀ w, p.wait = some w → now ≤ p.since + w

/-- `State.OnTime`, field by field: the end of the move's phase, the tick, and what each axis has scheduled. -/
structure State.Ahead (s : State) : Prop where
  phase : ∀ m, s.cmdState = .moving m → s.now ≤ m.phaseEnd
  tick : s.seqRun = true → ∀ t, s.seqNext = some t → s.now ≤ t
  axes : ∀ a, a < s.inst.nAxes → (s.ax a).Ahead s.now

theorem swg_mem_agents {s : State} {a : Nat} : Agent.swg a ∈ s.agents ↔ a < s.inst.nAxes := by
  simp [State.agents]

theorem pwm_mem_agents {s : State} {a : Nat} : Agent.pwm a ∈ s.agents ↔ a < s.inst.nAxes := by
  simp [State.agents]

theorem agentTime_move {s : State} {t : Time} :
    s.agentTime .move = some t ↔ ∃ m, s.cmdState = .moving m ∧ m.phaseEnd = t := by
  cases h : s.cmdState <;> simp [State.agentTime, h]

theorem agentTime_seq {s : State} {t : Time} :
    s.agentTime .seq = some t ↔ s.seqRun = true ∧ s.seqNext = some t :=
  Option.ite_none_right_eq_some

theorem agentTime_swg {s : State} {a : Nat} {t : Time} :
    s.agentTime (.swg a) = some t ↔ (s.ax a).swing = true ∧ (s.ax a).swingNext = some t :=
  Option.ite_none_right_eq_some

theorem agentTime_pwm {s : State} {a : Nat} {t : Time} :
    s.agentTime (.pwm a) = some t
      ↔ (s.ax a).cont = true ∧ ∃ p, (s.ax a).pwm = some p ∧ ∃ w, p.wait = some w ∧ p.since + w = t := by
  simp [State.agentTime, Option.bind_eq_some_iff]

theorem State.OnTime.ahead {s : State} (h : s.OnTime) : s.Ahead where
  phase m hm := h .move m.phaseEnd (by simp [State.agents]) nofun nofun (agentTime_move.mpr ⟨m, hm, rfl⟩)
  tick hrun t ht := h .seq t (by simp [State.agents]) nofun nofun (agentTime_seq.mpr ⟨hrun, ht⟩)
  axes a ha := {
    toggle := fun hswing t ht =>
      h (.swg a) t (swg_mem_agents.mpr ha) nofun nofun (agentTime_swg.mpr ⟨hswing, ht⟩)
    edge := fun hcont p hp w hw =>
      h (.pwm a) _ (pwm_mem_agents.mpr ha) nofun nofun (agentTime_pwm.mpr ⟨hcont, p, hp, w, hw, rfl⟩) }

/-- A presented command is accepted at the time of the clock, so the executor is never late. -/
theorem State.Ahead.onTime {s : State} (h : s.Ahead) : s.OnTime := by
  intro g t hg hhost hrst ht
  cases g with
  | host => exact absurd rfl hhost
  | rst => exact absurd rfl hrst
  | cmd =>
    obtain ⟨-, hnow⟩ := Option.ite_none_right_eq_some.mp ht
    exact (Option.some.inj hnow).le
  | move =>
    obtain ⟨m, hm, rfl⟩ := agentTime_move.mp ht
    exact h.phase m hm
  | seq =>
    obtain ⟨hrun, hnext⟩ := agentTime_seq.mp ht
    exact h.tick hrun t hnext
  | swg a =>
    obtain ⟨hswing, hnext⟩ := agentTime_swg.mp ht
    exact (h.axes a (swg_mem_agents.mp hg)).toggle hswing t hnext
  | pwm a =>
    obtain ⟨hcont, p, hp, w, hw, rfl⟩ := agentTime_pwm.mp ht
    exact (h.axes a (pwm_mem_agents.mp hg)).edge hcont p hp w hw

/-! ### One axis -/

namespace Axis.Ahead
variable {now : Time} {x : Axis}

/-- A wait that is not negative puts the first edge at its start or later. -/
theorem startGenerator (h : x.Ahead now) (width : Nat) (level : Bool) {wait : Rat} (hwait : 0 ≤ wait) :
    { x with contPw := width, cont := true, stepPin := level, pwm := some ⟨now, some wait⟩ }.Ahead now :=
  { h with
    edge := fun _ p hp w hw => by
      cases hp
      cases hw
      exact le_add_of_nonneg_right hwait }

theorem stopGenerator (h : x.Ahead now) (keep : Bool) :
    { x with cont := false, pwm := none, stepPin := false, swing := x.swing && keep }.Ahead now where
  toggle hs := h.toggle (Bool.and_eq_true_iff.mp hs).1
  edge := nofun

theorem startSwing (h : x.Ahead now) (ms : Nat) :
    { x with swing := true, swingMs := ms, swingNext := some (now + 1000 * (ms : Rat)) }.Ahead now :=
  { h with
    toggle := fun _ t ht => by
      cases ht
      exact le_add_of_nonneg_right (by positivity) }

theorem cancelSwing (h : x.Ahead now) : { x with swing := false }.Ahead now :=
  { h with toggle := nofun }

/-- The next toggle comes after the one that was still ahead. -/
theorem swingToggle (h : x.Ahead now) {time : Time} (hnext : x.swingNext = some time) (d : Dir) (level : Bool) :
    { x with
      dir := d
      dirPin := level
      swingNext := some (time + 1000 * (x.swingMs : Rat)) }.Ahead now :=
  { h with
    toggle := fun hs t ht => by
      cases ht
      exact le_add_of_le_of_nonneg (h.toggle hs time hnext) (by positivity) }

/-- The next edge comes a half-period, which is positive, after the one that was still ahead. -/
theorem pwmEdge (h : x.Ahead now) {since : Time} {wait : Rat} (hpwm : x.pwm = some ⟨since, some wait⟩)
    (level : Bool) :
    { x with stepPin := level, pwm := some ⟨since + wait, halfPeriod x.contPw⟩ }.Ahead now :=
  { h with
    edge := fun hc p hp w hw => by
      cases hp
      exact le_add_of_le_of_nonneg (h.edge hc _ hpwm wait rfl) (halfPeriod_eq_some hw).1.le }

end Axis.Ahead

/-! ### The operations -/

/-- The two states have the same clock, and the same scheduled but for the axes. The operations' field lemmas give each
clause. -/
structure SameSchedule (s t : State) : Prop where
  inst : t.inst = s.inst := by simp
  now : t.now = s.now := by simp
  cmdState : t.cmdState = s.cmdState := by simp
  seqRun : t.seqRun = s.seqRun := by simp
  seqNext : t.seqNext = s.seqNext := by simp

section
variable {s t : State}

theorem State.Ahead.of_modAx {a : Nat} {f : Axis → Axis} (h : s.Ahead) (same : SameSchedule s t)
    (hax : ∀ b, t.ax b = (modAx a f s).ax b)
    (haxis : (s.ax a).Ahead s.now → (f (s.ax a)).Ahead s.now) : t.Ahead where
  phase m hm := same.now ▸ h.phase m (same.cmdState ▸ hm)
  tick hrun time hnext := same.now ▸ h.tick (same.seqRun ▸ hrun) time (same.seqNext ▸ hnext)
  axes b hb := by
    rw [same.inst] at hb
    rw [hax, ax_modAx, same.now]
    split
    · next hba => obtain ⟨rfl, -⟩ := hba; exact haxis (h.axes b hb)
    · exact h.axes b hb

theorem setEnable_ahead (h : s.Ahead) (a : Nat) (e : Bool) : (setEnable a e s).Ahead :=
  h.of_modAx {} (ax_setEnable a e s) fun hx => { hx with }

theorem setDir_ahead (h : s.Ahead) (a : Nat) (d : Dir) : (setDir a d s).Ahead :=
  h.of_modAx {} (ax_setDir a d s) fun hx => { hx with }

theorem setRef_ahead (h : s.Ahead) (a : Nat) (r : Rat) : (setRef a r s).Ahead :=
  h.of_modAx {} (ax_setRef a r s) fun hx => { hx with }

theorem storeWidth_ahead (h : s.Ahead) (a : Nat) (q : Rat) : (storeWidth a q s).Ahead :=
  h.of_modAx {} (ax_storeWidth a q s) fun hx => { hx with }

theorem firstWait_nonneg (phase : Nat × Nat) (width : Nat) : 0 ≤ firstWait phase width := by
  unfold firstWait; positivity

theorem startGenerator_ahead (h : s.Ahead) (a : Nat) : (startGenerator a s).Ahead :=
  h.of_modAx {} (ax_startGenerator a s) fun hx => hx.startGenerator _ _ (firstWait_nonneg _ _)

theorem stopGenerator_ahead (h : s.Ahead) (a : Nat) : (stopGenerator a s).Ahead :=
  h.of_modAx {} (ax_stopGenerator a s) fun hx => hx.stopGenerator _

theorem startSwing_ahead (h : s.Ahead) (a ms : Nat) : (startSwing a ms s).Ahead :=
  h.of_modAx {} (ax_startSwing a ms s) fun hx => hx.startSwing ms

theorem cancelSwing_ahead (h : s.Ahead) (a : Nat) : (cancelSwing a s).Ahead :=
  h.of_modAx {} (ax_cancelSwing a s) fun hx => hx.cancelSwing

theorem swingToggle_ahead (h : s.Ahead) {a : Nat} {time : Time} (hnext : (s.ax a).swingNext = some time) :
    (swingToggle a time s).Ahead :=
  h.of_modAx {} (ax_swingToggle a time s) fun hx => hx.swingToggle hnext _ _

theorem pwmEdge_ahead (h : s.Ahead) {a : Nat} {since : Time} {wait : Rat}
    (hpwm : (s.ax a).pwm = some ⟨since, some wait⟩) : (pwmEdge a (since + wait) s).Ahead :=
  h.of_modAx {} (ax_pwmEdge a (since + wait) s) fun hx => hx.pwmEdge hpwm _

theorem writeStep_ahead (h : s.Ahead) (a : Nat) (l : Bool) : (writeStep a l s).Ahead := by
  unfold writeStep
  split
  · exact h
  · exact h.of_modAx {} (ax_driveStep a l s) fun hx => { hx with }

theorem writeDir_ahead (h : s.Ahead) (a : Nat) (l : Bool) : (writeDir a l s).Ahead :=
  h.of_modAx {} (ax_writeDir a l s) fun hx => { hx with }

/-! ### The command port and the sequencer -/

theorem acceptCommand_ahead (h : s.Ahead) : (acceptCommand s).Ahead := { h with phase := nofun }

theorem respond_ahead (h : s.Ahead) (d : Word) : (respond d s).Ahead := { h with phase := nofun }

theorem raiseFault_ahead (h : s.Ahead) (c : Cause) : (raiseFault c s).Ahead := { h with phase := nofun }

/-- The first tick comes one period after the command (44_sequencer R217). -/
theorem seqStartEffect_ahead (h : s.Ahead) (mask : Word) : (seqStartEffect mask s).Ahead :=
  { h with
    tick := fun _ time hnext => by
      cases hnext
      exact le_add_of_nonneg_right (by positivity) }

/-- The next tick comes one period after the one that was still ahead (44_sequencer R223). -/
theorem advanceIndex_ahead (h : s.Ahead) {time : Time} (hnext : s.seqNext = some time) :
    (advanceIndex time s).Ahead := by
  unfold advanceIndex
  split
  · exact { h with tick := nofun }
  · exact { h with
      tick := fun hrun t ht => by
        cases ht
        exact le_add_of_le_of_nonneg (h.tick hrun time hnext) (by positivity) }

theorem playEntry_ahead (h : s.Ahead) (a : Nat) (e : Entry) : (playEntry a e s).Ahead :=
  writeDir_ahead (writeStep_ahead h a e.pulse) a _

theorem playEntry_seqNext (a : Nat) (e : Entry) (s : State) : (playEntry a e s).seqNext = s.seqNext := by
  rw [playEntry, writeDir_seqNext, writeStep_seqNext]

theorem playLanes_seqNext {lanes : List Nat} (hrun : playLanes lanes s = .next t) : t.seqNext = s.seqNext :=
  playLanes_keeps (P := fun u => u.seqNext = s.seqNext) (fun _ _ hu => hu)
    (fun u a e hu => (playEntry_seqNext a e u).trans hu) rfl hrun

theorem playLanes_ahead (h : s.Ahead) {lanes : List Nat} (hrun : playLanes lanes s = .next t) : t.Ahead :=
  playLanes_keeps (P := State.Ahead) (fun _ _ hu => { hu with }) (fun _ a e hu => playEntry_ahead hu a e) h hrun

theorem tick_ahead (h : s.Ahead) {time : Time} (hnext : s.seqNext = some time) {lanes : List Nat}
    (hrun : playLanes lanes s = .next t) : (advanceIndex time (reorderTick s t)).Ahead :=
  have hreordered : (reorderTick s t).Ahead := { playLanes_ahead h hrun with }
  advanceIndex_ahead hreordered ((playLanes_seqNext hrun).trans hnext)

/-! ### Moves -/

/-- A move begins or goes on when the end of its phase is ahead; the pulse it writes schedules nothing. -/
theorem writePulse_ahead (h : s.Ahead) {m : Move} (hphase : s.now ≤ m.phaseEnd) (a : Nat) (l : Bool) :
    (writeStep a l { s with cmdState := .moving m }).Ahead :=
  have hmoving : { s with cmdState := .moving m }.Ahead :=
    { h with
      phase := fun _ hm => by
        cases hm
        exact hphase }
  writeStep_ahead hmoving a l

theorem moveRel_ahead (h : s.Ahead) (a : Nat) (rel : Rat) : (moveRel a rel s).Ahead := by
  unfold moveRel
  split
  · exact respond_ahead h 0
  · exact writePulse_ahead h (le_add_of_nonneg_right (by positivity)) a true

/-- The next phase ends one width after the one that was still ahead (41_discrete_motion R151). -/
theorem moveStep_ahead (h : s.Ahead) {m : Move} (hmoving : s.cmdState = .moving m) : (moveStep m s).Ahead := by
  have hphase : s.now ≤ m.phaseEnd + (m.width : Rat) :=
    le_add_of_le_of_nonneg (h.phase m hmoving) (by positivity)
  have href : (updateRef m.axis s).Ahead := setRef_ahead h m.axis _
  unfold moveStep
  split
  · exact writePulse_ahead h hphase m.axis false
  · unfold endLow
    split
    · exact respond_ahead href 0
    · exact writePulse_ahead href hphase m.axis true

/-! ### Commands, agents, resets and the passage of time -/

/-- No instruction schedules anything in the past. -/
theorem exec_ahead {i : Instr} (h : s.Ahead) (hrun : exec i s = .next t) : t.Ahead := by
  have hcommand {effect : State} {checks : List (Bool × Cause)} (hrun : command s checks effect = .next t)
      (heffect : effect.Ahead) : t.Ahead :=
    command_keeps hrun (raiseFault_ahead h) fun _ => heffect
  have hentry {e : Entry} (hrun : exec e.toInstr s = .next t) : t.Ahead := by
    cases (exec_toInstr e s).symm.trans hrun
    exact playEntry_ahead h s.lane e
  cases i with
  | enable axis | disable axis => exact hcommand hrun (respond_ahead (setEnable_ahead h axis.toNat _) 0)
  | setDirection axis dir => exact hcommand hrun (respond_ahead (setDir_ahead h axis.toNat dir) 0)
  | setReference axis => exact hcommand hrun (respond_ahead (setRef_ahead h axis.toNat _) 0)
  | setSpeedPw axis | setSpeedSps axis | setSpeedRps axis | setSpeedRpm axis =>
    exact hcommand hrun (respond_ahead (storeWidth_ahead h axis.toNat _) 0)
  | goRel axis | goAbs axis => exact hcommand hrun (moveRel_ahead h axis.toNat _)
  | contStart axis => exact hcommand hrun (respond_ahead (startGenerator_ahead h axis.toNat) 0)
  | contStop axis => exact hcommand hrun (respond_ahead (stopGenerator_ahead h axis.toNat) 0)
  | swingStart axis period =>
    exact hcommand hrun
      (respond_ahead (startSwing_ahead (startGenerator_ahead h axis.toNat) axis.toNat period.toNat) 0)
  | swingStop axis =>
    exact hcommand hrun (respond_ahead (stopGenerator_ahead (cancelSwing_ahead h axis.toNat) axis.toNat) 0)
  | seqSetLen axis len =>
    have hlen : (modAx axis.toNat (fun x => { x with seqLen := len }) s).Ahead :=
      h.of_modAx {} (fun _ => rfl) fun hx => { hx with }
    exact hcommand hrun (respond_ahead hlen 0)
  | seqStart axis mask => exact hcommand hrun (respond_ahead (seqStartEffect_ahead h mask) 0)
  | seqWrite | seqSetPeriod | readReg => exact hcommand hrun { h with phase := nofun }
  | stepLoFwd => exact hentry (e := ⟨false, .fwd⟩) hrun
  | stepHiFwd => exact hentry (e := ⟨true, .fwd⟩) hrun
  | stepLoRev => exact hentry (e := ⟨false, .rev⟩) hrun
  | stepHiRev => exact hentry (e := ⟨true, .rev⟩) hrun

/-- A reset schedules nothing (70_reset_and_hazards R291). -/
theorem resetBlock_ahead (s : State) : (resetBlock s).Ahead where
  phase := nofun
  tick := nofun
  axes a _ := by
    have hax : (resetBlock s).ax a = Axis.reset s.inst := resetOf_ax s.inst a
    rw [hax]
    exact ⟨nofun, nofun⟩

theorem resetEdge_ahead (h : s.Ahead) : (resetEdge s).Ahead := by
  unfold resetEdge
  split
  · exact h
  · split
    · exact resetBlock_ahead _
    · exact { h with }

theorem holdReset_ahead (h : s.Ahead) : (holdReset s).Ahead := by
  unfold holdReset
  split
  · exact resetBlock_ahead s
  · exact h

theorem presentCommand_ahead (h : s.Ahead) : (presentCommand s).Ahead := by
  unfold presentCommand
  split
  · exact h
  · exact { h with }

/-- No agent schedules anything in the past, due or not. -/
theorem Acts.ahead {g : Agent} (hact : Acts s g t) (h : s.Ahead) : t.Ahead := by
  cases hact with
  | nothing => exact h
  | present => exact presentCommand_ahead h
  | reset => exact resetEdge_ahead h
  | command _ hexec => exact exec_ahead (acceptCommand_ahead h) hexec
  | illegal => exact raiseFault_ahead (acceptCommand_ahead h) _
  | move hmoving => exact moveStep_ahead h hmoving
  | tick hnext _ hlanes => exact tick_ahead h hnext hlanes
  | toggle hnext => exact swingToggle_ahead h hnext
  | edge hpwm => exact pwmEdge_ahead h hpwm

/-- Only the command executor's time moves with the clock. -/
theorem agentTime_of_now {now time : Time} {g : Agent} (h : { s with now := now }.agentTime g = some time) :
    s.agentTime g = some time ∨ time = now := by
  cases g with
  | cmd =>
    obtain ⟨-, hnow⟩ := Option.ite_none_right_eq_some.mp h
    exact .inr (Option.some.inj hnow).symm
  | host | rst | move | seq | swg | pwm => exact .inl h

/-- Time passes to the earliest event and overtakes none. -/
theorem passTime_onTime (h : s.OnTime) : (passTime s).OnTime := by
  unfold passTime
  split
  · exact h
  · next hearliest =>
    split
    · intro g time hg _ _ htime
      rcases agentTime_of_now htime with htime | rfl
      · exact earliest_le hearliest (List.mem_filterMap.mpr ⟨g, hg, htime⟩)
      · exact le_rfl
    · exact h

end

/-- Settles O44, by the cases of a step: the reset line is applied, then one agent acts and schedules nothing in the
past, or time passes to the earliest event. -/
theorem noEventIsOvertaken : Obligations.NoEventIsOvertaken := by
  intro s t _ h hstep
  have hheld := holdReset_ahead h.ahead
  rcases step_cases hstep with ⟨g, -, k, hg⟩ | ⟨-, rfl⟩
  · exact ((acts_of_perform hg).ahead { hheld with }).onTime
  · exact passTime_onTime hheld.onTime

/-! ### How one step is taken -/

section
variable {s : State}

theorem holdReset_eq_self (h : s.resetIn = false) : holdReset s = s := by
  simp [holdReset, h]

theorem passTime_eq (s : State) : passTime s = { s with now := (passTime s).now } := by
  unfold passTime
  split
  · rfl
  · split <;> rfl

/-- With `RESET` low and some agent due, a step is the step of a due agent, with its answer: a fault included. -/
theorem step_of_due (hreset : s.resetIn = false) (hdue : s.due ≠ []) :
    ∃ g ∈ s.due, ∃ k, step s = perform g { s with draws := k } := by
  simp only [step, nextStep, holdReset_eq_self hreset]
  cases hd : s.due with
  | nil => exact absurd hd hdue
  | cons g l =>
    cases l with
    | nil => exact ⟨g, List.mem_cons_self, s.draws, rfl⟩
    | cons g' rest =>
      have hlt : Config.freeChoice s.draws % (rest.length + 2) < (g :: g' :: rest).length :=
        Nat.mod_lt _ (by simp)
      refine ⟨_, ?_, s.draws + 1, rfl⟩
      rw [List.getD_eq_getElem _ _ hlt]
      exact List.getElem_mem hlt

theorem step_of_none_due (hreset : s.resetIn = false) (hdue : s.due = []) : step s = .next (passTime s) := by
  simp only [step, nextStep, holdReset_eq_self hreset, hdue]

end

/-- Settles O38, by whether an agent is due: the choice falls on one of the due agents, and the passage of time
changes the clock alone. -/
theorem oneDueAgentSteps : Obligations.OneDueAgentSteps := by
  intro s hreset
  refine ⟨step_of_due hreset, fun hdue => ⟨(passTime s).now, now_le_passTime s, ?_⟩⟩
  rw [← passTime_eq, step_of_none_due hreset hdue]

end Sys2Proof.Machine
end

section
/-! The program a running sequence plays: its entries, lengths, period, axes and end (20_memory R84). -/

namespace Sys2Proof.Machine

/-- What a sequence plays is the same in both states. The operations' field lemmas give each clause but the lengths. -/
structure SameProgram (s t : State) : Prop where
  mem : t.mem = s.mem := by simp
  period : t.seqPeriod = s.seqPeriod := by simp
  mask : t.seqMask = s.seqMask := by simp
  fin : t.seqEnd = s.seqEnd := by simp
  seqLen : ∀ a, (t.ax a).seqLen = (s.ax a).seqLen

section
variable {s t u : State}

theorem SameProgram.refl (s : State) : SameProgram s s := { seqLen := fun _ => rfl }

theorem SameProgram.trans (h : SameProgram s t) (h' : SameProgram t u) : SameProgram s u where
  mem := h'.mem.trans h.mem
  period := h'.period.trans h.period
  mask := h'.mask.trans h.mask
  fin := h'.fin.trans h.fin
  seqLen a := (h'.seqLen a).trans (h.seqLen a)

/-- A change of one axis leaves every length when it leaves that axis's. -/
theorem seqLen_of_modAx {a : Nat} {f : Axis → Axis} (hax : ∀ b, t.ax b = (modAx a f s).ax b)
    (hlen : (f (s.ax a)).seqLen = (s.ax a).seqLen) (b : Nat) : (t.ax b).seqLen = (s.ax b).seqLen := by
  rw [hax, ax_modAx]
  split
  · next hba => obtain ⟨rfl, -⟩ := hba; exact hlen
  · rfl

/-! ### The operations -/

theorem respond_sameProgram (h : SameProgram s t) (d : Word) : SameProgram s (respond d t) := { h with }

theorem raiseFault_sameProgram (s : State) (c : Cause) : SameProgram s (raiseFault c s) :=
  { seqLen := fun _ => rfl }

theorem acceptCommand_sameProgram (s : State) : SameProgram s (acceptCommand s) := { seqLen := fun _ => rfl }

theorem setEnable_sameProgram (a : Nat) (e : Bool) (s : State) : SameProgram s (setEnable a e s) :=
  { seqLen := seqLen_of_modAx (ax_setEnable a e s) rfl }

theorem setDir_sameProgram (a : Nat) (d : Dir) (s : State) : SameProgram s (setDir a d s) :=
  { seqLen := seqLen_of_modAx (ax_setDir a d s) rfl }

theorem setRef_sameProgram (a : Nat) (r : Rat) (s : State) : SameProgram s (setRef a r s) :=
  { seqLen := seqLen_of_modAx (ax_setRef a r s) rfl }

theorem storeWidth_sameProgram (a : Nat) (q : Rat) (s : State) : SameProgram s (storeWidth a q s) :=
  { seqLen := seqLen_of_modAx (ax_storeWidth a q s) rfl }

theorem startGenerator_sameProgram (a : Nat) (s : State) : SameProgram s (startGenerator a s) :=
  { seqLen := seqLen_of_modAx (ax_startGenerator a s) rfl }

theorem stopGenerator_sameProgram (a : Nat) (s : State) : SameProgram s (stopGenerator a s) :=
  { seqLen := seqLen_of_modAx (ax_stopGenerator a s) rfl }

theorem startSwing_sameProgram (a ms : Nat) (s : State) : SameProgram s (startSwing a ms s) :=
  { seqLen := seqLen_of_modAx (ax_startSwing a ms s) rfl }

theorem cancelSwing_sameProgram (a : Nat) (s : State) : SameProgram s (cancelSwing a s) :=
  { seqLen := seqLen_of_modAx (ax_cancelSwing a s) rfl }

theorem swingToggle_sameProgram (a : Nat) (time : Time) (s : State) : SameProgram s (swingToggle a time s) :=
  { seqLen := seqLen_of_modAx (ax_swingToggle a time s) rfl }

theorem pwmEdge_sameProgram (a : Nat) (time : Time) (s : State) : SameProgram s (pwmEdge a time s) :=
  { seqLen := seqLen_of_modAx (ax_pwmEdge a time s) rfl }

theorem writeStep_sameProgram (a : Nat) (l : Bool) (s : State) : SameProgram s (writeStep a l s) := by
  unfold writeStep
  split
  · exact .refl s
  · exact { seqLen := seqLen_of_modAx (ax_driveStep a l s) rfl }

theorem writeDir_sameProgram (a : Nat) (l : Bool) (s : State) : SameProgram s (writeDir a l s) :=
  { seqLen := seqLen_of_modAx (ax_writeDir a l s) rfl }

/-! ### Moves and ticks -/

/-- A pulse of a move writes the move record and a pin. -/
theorem writePulse_sameProgram (h : SameProgram s t) (m : Move) (a : Nat) (l : Bool) :
    SameProgram s (writeStep a l { t with cmdState := .moving m }) :=
  have hmoving : SameProgram s { t with cmdState := .moving m } := { h with }
  hmoving.trans (writeStep_sameProgram a l _)

theorem moveRel_sameProgram (a : Nat) (rel : Rat) (s : State) : SameProgram s (moveRel a rel s) := by
  unfold moveRel
  split
  · exact respond_sameProgram (.refl s) 0
  · exact writePulse_sameProgram (.refl s) _ a true

theorem moveStep_sameProgram (m : Move) (s : State) : SameProgram s (moveStep m s) := by
  have href : SameProgram s (updateRef m.axis s) := setRef_sameProgram m.axis _ s
  unfold moveStep
  split
  · exact writePulse_sameProgram (.refl s) _ m.axis false
  · unfold endLow
    split
    · exact respond_sameProgram href 0
    · exact writePulse_sameProgram href _ m.axis true

theorem playEntry_sameProgram (a : Nat) (e : Entry) (s : State) : SameProgram s (playEntry a e s) :=
  (writeStep_sameProgram a e.pulse s).trans (writeDir_sameProgram a _ _)

theorem playLanes_sameProgram {lanes : List Nat} (hrun : playLanes lanes s = .next t) : SameProgram s t :=
  playLanes_keeps (P := SameProgram s) (fun _ _ hu => { hu with })
    (fun u a e hu => hu.trans (playEntry_sameProgram a e u)) (.refl s) hrun

theorem advanceIndex_sameProgram (time : Time) (s : State) : SameProgram s (advanceIndex time s) := by
  unfold advanceIndex
  split <;> exact { seqLen := fun _ => rfl }

theorem tick_sameProgram {lanes : List Nat} (hrun : playLanes lanes s = .next t) (time : Time) :
    SameProgram s (advanceIndex time (reorderTick s t)) :=
  have hreordered : SameProgram s (reorderTick s t) := { playLanes_sameProgram hrun with }
  hreordered.trans (advanceIndex_sameProgram time _)

/-! ### Commands, agents and the passage of time -/

/-- While a sequence runs, no instruction changes what it plays: the commands that would are refused (60_exceptions
R262). -/
theorem exec_sameProgram {i : Instr} (hplaying : s.seqRun = true) (hrun : exec i s = .next t) : SameProgram s t := by
  have hcommand {effect : State} {checks : List (Bool × Cause)} (hrun : command s checks effect = .next t)
      (heffect : SameProgram s effect) : SameProgram s t :=
    command_keeps hrun (raiseFault_sameProgram s) fun _ => heffect
  have hrefused {effect : State} {checks : List (Bool × Cause)} (hrun : command s checks effect = .next t)
      (hcheck : seqRunCheck s ∈ checks) : SameProgram s t :=
    command_keeps hrun (raiseFault_sameProgram s) fun hpass =>
      absurd (hplaying.symm.trans (hpass _ hcheck)) nofun
  have hentry {e : Entry} (hrun : exec e.toInstr s = .next t) : SameProgram s t := by
    cases (exec_toInstr e s).symm.trans hrun
    exact playEntry_sameProgram s.lane e s
  cases i with
  | enable axis | disable axis => exact hcommand hrun (respond_sameProgram (setEnable_sameProgram axis.toNat _ s) 0)
  | setDirection axis dir => exact hcommand hrun (respond_sameProgram (setDir_sameProgram axis.toNat dir s) 0)
  | setReference axis => exact hcommand hrun (respond_sameProgram (setRef_sameProgram axis.toNat _ s) 0)
  | setSpeedPw axis | setSpeedSps axis | setSpeedRps axis | setSpeedRpm axis =>
    exact hcommand hrun (respond_sameProgram (storeWidth_sameProgram axis.toNat _ s) 0)
  | goRel axis | goAbs axis => exact hcommand hrun (moveRel_sameProgram axis.toNat _ s)
  | contStart axis => exact hcommand hrun (respond_sameProgram (startGenerator_sameProgram axis.toNat s) 0)
  | contStop axis => exact hcommand hrun (respond_sameProgram (stopGenerator_sameProgram axis.toNat s) 0)
  | swingStart axis period =>
    have hstarted := (startGenerator_sameProgram axis.toNat s).trans (startSwing_sameProgram axis.toNat period.toNat _)
    exact hcommand hrun (respond_sameProgram hstarted 0)
  | swingStop axis =>
    have hstopped := (cancelSwing_sameProgram axis.toNat s).trans (stopGenerator_sameProgram axis.toNat _)
    exact hcommand hrun (respond_sameProgram hstopped 0)
  | readReg => exact hcommand hrun (respond_sameProgram (.refl s) _)
  | seqWrite | seqSetLen | seqSetPeriod => exact hrefused hrun (by simp)
  | seqStart => exact hrefused hrun (by simp [seqStartChecks])
  | stepLoFwd => exact hentry (e := ⟨false, .fwd⟩) hrun
  | stepHiFwd => exact hentry (e := ⟨true, .fwd⟩) hrun
  | stepLoRev => exact hentry (e := ⟨false, .rev⟩) hrun
  | stepHiRev => exact hentry (e := ⟨true, .rev⟩) hrun

theorem presentCommand_sameProgram (s : State) : SameProgram s (presentCommand s) := by
  unfold presentCommand
  split <;> exact { seqLen := fun _ => rfl }

/-- A change of `RESET` that does not assert it leaves the block. -/
theorem resetEdge_sameProgram (hstill : (resetEdge s).resetIn = false) : SameProgram s (resetEdge s) := by
  unfold resetEdge at hstill ⊢
  split
  · exact .refl s
  · next e rest hstream =>
    cases hlevel : e.level with
    | true => simp [hstream, hlevel] at hstill
    | false => exact { seqLen := fun _ => rfl }

/-- While a sequence runs, no agent changes what it plays, but by asserting `RESET`. -/
theorem Acts.sameProgram {g : Agent} (hact : Acts s g t) (hplaying : s.seqRun = true)
    (hstill : t.resetIn = false) : SameProgram s t := by
  cases hact with
  | nothing => exact .refl s
  | present => exact presentCommand_sameProgram s
  | reset => exact resetEdge_sameProgram hstill
  | command _ hexec => exact (acceptCommand_sameProgram s).trans (exec_sameProgram hplaying hexec)
  | illegal => exact (acceptCommand_sameProgram s).trans (raiseFault_sameProgram _ _)
  | move => exact moveStep_sameProgram _ s
  | tick _ _ hlanes => exact tick_sameProgram hlanes _
  | toggle => exact swingToggle_sameProgram _ _ s
  | edge => exact pwmEdge_sameProgram _ _ s

theorem passTime_sameProgram (s : State) : SameProgram s (passTime s) := by
  rw [passTime_eq]
  exact { seqLen := fun _ => rfl }

end

/-- Settles O47, by the cases of a step: the line being low, one agent acts, or time passes, and neither touches the
program that plays. -/
theorem playingSequenceIsNotModified : Obligations.PlayingSequenceIsNotModified := by
  intro s t hstep hlow hstill hplaying
  have same : SameProgram s t := by
    rcases step_cases hstep with ⟨g, -, k, hg⟩ | ⟨-, rfl⟩
    · rw [holdReset_eq_self hlow] at hg
      exact { (acts_of_perform hg).sameProgram hplaying hstill with }
    · rw [holdReset_eq_self hlow]
      exact passTime_sameProgram s
  exact ⟨fun k => by rw [same.mem], same.period, same.mask, same.fin, same.seqLen⟩

end Sys2Proof.Machine
end

section
/-! The encoding (30_encoding R91 to R104): the fields of a command word, the operands both ways, and with them the
agreement of the decoder and the encoder. -/

namespace Sys2Proof

/-! ### The fields of a command word -/

@[simp] theorem opField_commandWord (op axis : Byte) : opField (commandWord op axis) = op :=
  BitVec.extractLsb'_append_eq_right

@[simp] theorem axisField_commandWord (op axis : Byte) : axisField (commandWord op axis) = axis :=
  (BitVec.extractLsb'_append_eq_of_le (by decide)).trans BitVec.extractLsb'_append_eq_right

@[simp] theorem rsvField_commandWord (op axis : Byte) : rsvField (commandWord op axis) = 0 :=
  (BitVec.extractLsb'_append_eq_of_le (by decide)).trans BitVec.extractLsb'_append_eq_left

/-- A word is its three fields. -/
theorem fields_append (word : Word) : rsvField word ++ axisField word ++ opField word = word := by
  rw [rsvField, axisField, opField, BitVec.extractLsb'_append_extractLsb'_eq_extractLsb' (rfl : 16 = 8 + 8),
    BitVec.extractLsb'_append_extractLsb'_eq_extractLsb' (rfl : 8 = 0 + 8)]
  exact BitVec.extractLsb'_eq_self

/-- A word with no reserved bit set is the word of its opcode and axis. -/
theorem commandWord_fields {word : Word} (h : rsvField word = 0) :
    commandWord (opField word) (axisField word) = word := by
  conv_rhs => rw [← fields_append word, h]
  rfl

theorem decodeCommand_commandWord (op axis : Byte) (arg : Word) :
    decodeCommand (commandWord op axis) arg = decodeOp op axis arg := by
  simp [decodeCommand]

/-- A word the decoder reads has no reserved bit set, and its opcode is in the table. -/
theorem decodeCommand_eq_ok {word arg : Word} {i : Instr} (h : decodeCommand word arg = .ok i) :
    rsvField word = 0 ∧ decodeOp (opField word) (axisField word) arg = .ok i := by
  unfold decodeCommand at h
  split at h
  · cases h
  · next hrsv => exact ⟨not_not.mp hrsv, h⟩

/-! ### The operands, encoded and read back (30_encoding R93, R96) -/

theorem toInt_signedArg {m : Int} (h : fitsSigned m = true) : (signedArg m).toInt = m := by
  simp only [fitsSigned, Bool.and_eq_true, decide_eq_true_eq] at h
  exact BitVec.toInt_ofInt_eq_self (by decide) (by omega) (by omega)

theorem toNat_unsignedArg {n : Nat} (h : fitsUnsigned n = true) : (BitVec.ofNat 32 n).toNat = n := by
  have hn : n ≤ 4294967295 := of_decide_eq_true h
  exact BitVec.toNat_ofNat n 32 ▸ Nat.mod_eq_of_lt (by omega)

@[simp] theorem dirOfBit_bitOfDir (d : Dir) : dirOfBit (bitOfDir d) = d := by cases d <;> rfl

@[simp] theorem bitOfDir_dirOfBit (b : Bool) : bitOfDir (dirOfBit b) = b := by cases b <;> rfl

theorem directionArg_bit (d : Dir) (rsv : BitVec 31) : (directionArg d rsv).getLsbD 0 = bitOfDir d := by
  simp only [directionArg, BitVec.getLsbD_append]
  simp

theorem directionArg_rsv (d : Dir) (rsv : BitVec 31) : (directionArg d rsv).extractLsb' 1 31 = rsv :=
  BitVec.extractLsb'_append_eq_left

theorem seqWriteArg_index (index : BitVec 16) (e : Entry) (rsv : BitVec 14) :
    (seqWriteArg index e rsv).extractLsb' 0 16 = index :=
  BitVec.extractLsb'_append_eq_right

theorem seqWriteArg_pulse (index : BitVec 16) (e : Entry) (rsv : BitVec 14) :
    (seqWriteArg index e rsv).getLsbD 16 = e.pulse := by
  simp only [seqWriteArg, BitVec.getLsbD_append]
  simp

theorem seqWriteArg_dir (index : BitVec 16) (e : Entry) (rsv : BitVec 14) :
    (seqWriteArg index e rsv).getLsbD 17 = bitOfDir e.edir := by
  simp only [seqWriteArg, BitVec.getLsbD_append]
  simp

theorem seqWriteArg_rsv (index : BitVec 16) (e : Entry) (rsv : BitVec 14) :
    (seqWriteArg index e rsv).extractLsb' 18 14 = rsv := by
  rw [seqWriteArg, BitVec.extractLsb'_append_eq_of_le (by decide), BitVec.extractLsb'_append_eq_of_le (by decide)]
  exact BitVec.extractLsb'_append_eq_left

theorem readRegArg_reg (reg rsv : BitVec 16) : (readRegArg reg rsv).extractLsb' 0 16 = reg :=
  BitVec.extractLsb'_append_eq_right

theorem readRegArg_rsv (reg rsv : BitVec 16) : (readRegArg reg rsv).extractLsb' 16 16 = rsv :=
  BitVec.extractLsb'_append_eq_left

/-! ### The operands, read and encoded back -/

theorem signedArg_toInt (arg : Word) : signedArg arg.toInt = arg := BitVec.ofInt_toInt

/-- A single bit as a field of one bit. -/
theorem ofBool_getLsbD_eq_extractLsb' (arg : Word) (k : Nat) : BitVec.ofBool (arg.getLsbD k) = arg.extractLsb' k 1 := by
  ext i hi
  obtain rfl : i = 0 := by omega
  simp

theorem directionArg_of_fields (arg : Word) :
    directionArg (dirOfBit (arg.getLsbD 0)) (arg.extractLsb' 1 31) = arg := by
  rw [directionArg, bitOfDir_dirOfBit, ofBool_getLsbD_eq_extractLsb',
    BitVec.extractLsb'_append_extractLsb'_eq_extractLsb' (rfl : 1 = 0 + 1)]
  exact BitVec.extractLsb'_eq_self

theorem seqWriteArg_of_fields (arg : Word) :
    seqWriteArg (arg.extractLsb' 0 16) ⟨arg.getLsbD 16, dirOfBit (arg.getLsbD 17)⟩ (arg.extractLsb' 18 14) = arg := by
  rw [seqWriteArg, bitOfDir_dirOfBit, ofBool_getLsbD_eq_extractLsb', ofBool_getLsbD_eq_extractLsb',
    BitVec.extractLsb'_append_extractLsb'_eq_extractLsb' (rfl : 18 = 17 + 1),
    BitVec.extractLsb'_append_extractLsb'_eq_extractLsb' (rfl : 17 = 16 + 1),
    BitVec.extractLsb'_append_extractLsb'_eq_extractLsb' (rfl : 16 = 0 + 16)]
  exact BitVec.extractLsb'_eq_self

theorem readRegArg_of_fields (arg : Word) : readRegArg (arg.extractLsb' 0 16) (arg.extractLsb' 16 16) = arg := by
  rw [readRegArg, BitVec.extractLsb'_append_extractLsb'_eq_extractLsb' (rfl : 16 = 0 + 16)]
  exact BitVec.extractLsb'_eq_self

/-! ### Decoder and encoder agree -/

/-- Decoding an encoded entry gives its kind (30_encoding R95, R104). -/
theorem decodeEntry_byteOfEntry (e : Entry) : decodeEntry (byteOfEntry e) = .ok e.toInstr := by
  simp [decodeEntry, Machine.entryOfByte_byteOfEntry]

/-- Settles O1: a command word gives back its opcode and axis, and each kind of operand its value. -/
theorem decodeOfEncode : Obligations.DecodeOfEncode := by
  intro i hwf
  cases i with
  | enable axis | disable axis | contStart axis | contStop axis | swingStop axis | seqStart axis mask =>
    exact decodeCommand_commandWord _ axis _
  | setDirection axis d rsv =>
    simp only [encode, decode, decodeCommand_commandWord, decodeOp, directionArg_bit, directionArg_rsv,
      dirOfBit_bitOfDir]
  | setReference axis m | goAbs axis m | goRel axis m | setSpeedPw axis m | setSpeedRps axis m | setSpeedSps axis m
  | setSpeedRpm axis m | swingStart axis m | seqSetPeriod axis m =>
    simp only [encode, decode, decodeCommand_commandWord, decodeOp, toInt_signedArg hwf]
  | seqWrite axis index e rsv =>
    simp only [encode, decode, decodeCommand_commandWord, decodeOp, seqWriteArg_index, seqWriteArg_pulse,
      seqWriteArg_dir, seqWriteArg_rsv, dirOfBit_bitOfDir]
  | seqSetLen axis n =>
    simp only [encode, decode, decodeCommand_commandWord, decodeOp, toNat_unsignedArg hwf]
  | readReg axis reg rsv =>
    simp only [encode, decode, decodeCommand_commandWord, decodeOp, readRegArg_reg, readRegArg_rsv]
  | stepLoFwd => exact decodeEntry_byteOfEntry ⟨false, .fwd⟩
  | stepHiFwd => exact decodeEntry_byteOfEntry ⟨true, .fwd⟩
  | stepLoRev => exact decodeEntry_byteOfEntry ⟨false, .rev⟩
  | stepHiRev => exact decodeEntry_byteOfEntry ⟨true, .rev⟩

/-- The opcodes whose operand is ignored, and encoded as 0 (30_encoding R93, last row, R102). -/
def argumentlessOps : List Byte := [0x01#8, 0x02#8, 0x0B#8, 0x0C#8, 0x0E#8]

/-- What an opcode and its fields decode to is encoded with that opcode and that axis, and with the operand where
the opcode reads it. -/
theorem encode_of_decodeOp {op axis : Byte} {arg : Word} {i : Instr} (h : decodeOp op axis arg = .ok i) :
    encode i = .command (commandWord op axis) (if op ∈ argumentlessOps then 0 else arg) := by
  unfold decodeOp at h
  split at h <;> cases h
  all_goals simp only [encode, signedArg_toInt, directionArg_of_fields, seqWriteArg_of_fields,
    readRegArg_of_fields, BitVec.ofNat_toNat, BitVec.setWidth_eq]
  all_goals rfl

/-- Settles O2: a word the decoder reads is the word of its opcode and axis, and its operand is encoded as read. -/
theorem encodeOfDecode : Obligations.EncodeOfDecode := by
  intro word arg i h
  obtain ⟨hrsv, hop⟩ := decodeCommand_eq_ok h
  obtain ⟨hentry, hwf⟩ := Machine.decodeCommand_wf h
  have hencode := encode_of_decodeOp hop
  rw [commandWord_fields hrsv] at hencode
  refine ⟨hwf, hentry, ?_⟩
  change if opField word ∈ argumentlessOps then _ else _
  split
  · next hignored => rw [hencode, if_pos hignored]
  · next hread => rw [hencode, if_neg hread]

/-- Settles O4: each word is computed through the decoder. -/
theorem sampleWordsDecode : Obligations.SampleWordsDecode := by
  unfold Obligations.SampleWordsDecode
  decide

end Sys2Proof
end

section
/-! What the decoder refuses and what a command's checks refuse: the illegal words (30_encoding R98), the faults of the
axis field and of the operands (R94, R99, R101), and the step that runs a command. -/

namespace Sys2Proof

/-! ### The illegal words (30_encoding R98) -/

theorem toNat_shiftRight_sixteen (word : Word) : (word >>> 16).toNat = (rsvField word).toNat := by
  have hlt := word.isLt
  simp only [rsvField, BitVec.toNat_ushiftRight, BitVec.extractLsb'_toNat, Nat.shiftRight_eq_div_pow]
  omega

theorem toNat_and_mask (word : Word) : (word &&& 0xFF).toNat = (opField word).toNat := by
  simp only [opField, BitVec.extractLsb'_toNat, Nat.shiftRight_zero]
  exact Nat.and_two_pow_sub_one_eq_mod word.toNat 8

/-- The opcodes outside the table of R97. -/
def UnknownOp (op : Nat) : Prop := op = 0 ∨ op = 0x0F ∨ (0x14 ≤ op ∧ op ≤ 0x1F) ∨ 0x21 ≤ op

theorem decodeOp_eq_error_iff (op axis : Byte) (arg : Word) :
    (∃ e, decodeOp op axis arg = .error e) ↔ UnknownOp op.toNat := by
  unfold decodeOp
  split
  case h_20 =>
    refine ⟨fun _ => ?_, fun _ => ⟨.unknownOpcode, rfl⟩⟩
    unfold UnknownOp
    simp only [imp_false] at *
    bv_omega
  all_goals simp [UnknownOp]

/-- The decoder refuses a command by its reserved bits or by its opcode. -/
theorem decodeCommand_eq_error_iff (word arg : Word) :
    (∃ e, decodeCommand word arg = .error e) ↔ rsvField word ≠ 0 ∨ UnknownOp (opField word).toNat := by
  unfold decodeCommand
  split
  · next hrsv => exact ⟨fun _ => .inl hrsv, fun _ => ⟨.reservedWordBits, rfl⟩⟩
  · next hrsv => rw [decodeOp_eq_error_iff, or_iff_right hrsv]

end Sys2Proof

namespace Sys2Proof.Machine

section
variable {s : State}

/-! ### The step of the command executor -/

/-- When one agent alone is due, the step is its step. -/
theorem step_of_due_eq_singleton {g : Agent} (hreset : s.resetIn = false) (hdue : s.due = [g]) :
    step s = perform g s := by
  simp only [step, nextStep, holdReset_eq_self hreset, hdue]

theorem runCommand_of_ok {i : Instr} (h : decodeCommand s.cmdWord s.cmdArg = .ok i) :
    runCommand s = exec i (acceptCommand s) := by
  simp only [runCommand, h]

theorem runCommand_of_error {e : DecodeError} (h : decodeCommand s.cmdWord s.cmdArg = .error e) :
    runCommand s = .next (raiseFault .illegalCommand (acceptCommand s)) := by
  simp only [runCommand, h]

/-! ### What a fault does -/

/-- A fault answers its cause, keeps the first cause, and leaves the rest (60_exceptions R261, R264, R265). -/
theorem raiseFault_faulted (c : Cause) (s : State) : Faulted s (raiseFault c s) c where
  answer := ⟨rfl, rfl, rfl, rfl⟩
  sticky := rfl
  axes := ⟨rfl, fun _ => rfl⟩
  sequencer := ⟨rfl, rfl, rfl, rfl, rfl, rfl⟩
  memory _ := rfl
  world := ⟨rfl, rfl, rfl, rfl, rfl, rfl, rfl, rfl, rfl⟩
  trace := rfl
  draws := rfl

/-- A command faults with the cause of its first failing check. -/
theorem command_faulted {checks : List (Bool × Cause)} {c : Cause} {effect : State}
    (h : firstFault checks = some c) : ∃ t, command s checks effect = .next t ∧ Faulted s t c :=
  ⟨raiseFault c s, by simp only [command, h], raiseFault_faulted c s⟩

theorem firstFault_of_failed {failed : Bool} (h : failed = true) (c : Cause) (rest : List (Bool × Cause)) :
    firstFault ((failed, c) :: rest) = some c := by
  simp [firstFault, h]

theorem firstFault_of_passed {failed : Bool} (h : failed = false) (c : Cause) (rest : List (Bool × Cause)) :
    firstFault ((failed, c) :: rest) = firstFault rest := by
  simp [firstFault, h]

/-- The axis check comes first: an axis field that names no axis faults whatever the operand. -/
theorem command_faulted_of_badAxis {axis : Byte} {checks : List (Bool × Cause)} {effect : State}
    (h : s.inst.nAxes ≤ axis.toNat) :
    ∃ t, command s (axisCheck s axis :: checks) effect = .next t ∧ Faulted s t .badAxis :=
  command_faulted (firstFault_of_failed (decide_eq_true h) _ _)

theorem command_faulted_of_nonzero_axis {axis : Byte} {checks : List (Bool × Cause)} {effect : State}
    (h : axis ≠ 0) : ∃ t, command s (globalCheck axis :: checks) effect = .next t ∧ Faulted s t .badAxis :=
  command_faulted (firstFault_of_failed (decide_eq_true h) _ _)

theorem firstFault_axisCheck {axis : Byte} (h : axis.toNat < s.inst.nAxes) (rest : List (Bool × Cause)) :
    firstFault (axisCheck s axis :: rest) = firstFault rest :=
  firstFault_of_passed (decide_eq_false (not_le.mpr h)) _ rest

/-- When the axis is right, the check after it decides. -/
theorem command_faulted_of_operand {axis : Byte} {failed : Bool} {c : Cause} {rest : List (Bool × Cause)}
    {effect : State} (haxis : axis.toNat < s.inst.nAxes) (hfailed : failed = true) :
    ∃ t, command s (axisCheck s axis :: (failed, c) :: rest) effect = .next t ∧ Faulted s t c :=
  command_faulted ((firstFault_axisCheck haxis _).trans (firstFault_of_failed hfailed _ _))

end

/-- Settles O3: the decoder's refusals field by field, and the fault that answers them. -/
theorem illegalCommandsAreRefused : Obligations.IllegalCommandsAreRefused := by
  refine ⟨fun word arg => ?_, fun s e hreset hdue hdecode => ?_⟩
  · rw [decodeCommand_eq_error_iff, UnknownOp, ← toNat_and_mask]
    simp only [ne_eq, BitVec.toNat_eq, toNat_shiftRight_sixteen]
    -- What is left is the constants: as words in the statement, as numbers here.
    rfl
  · have hstep : step s = runCommand s := step_of_due_eq_singleton hreset hdue
    exact ⟨_, hstep.trans (runCommand_of_error hdecode), raiseFault_faulted _ _⟩

/-- Settles O33: the axis check stands first in every command. -/
theorem badAxisFaults : Obligations.BadAxisFaults := by
  refine ⟨fun s axis i haxis hi => ?_, fun s axis haxis => ⟨fun p => ?_, fun m => ?_⟩⟩
  · rcases hi with ⟨d, r, rfl⟩ | ⟨x, e, r, rfl⟩ | ⟨n, rfl⟩ | ⟨m, hi⟩ | hi
    · exact command_faulted_of_badAxis haxis
    · exact command_faulted_of_badAxis haxis
    · exact command_faulted_of_badAxis haxis
    · simp only [List.mem_cons, List.not_mem_nil, or_false] at hi
      rcases hi with rfl | rfl | rfl | rfl | rfl | rfl | rfl | rfl <;> exact command_faulted_of_badAxis haxis
    · simp only [List.mem_cons, List.not_mem_nil, or_false] at hi
      rcases hi with rfl | rfl | rfl | rfl | rfl <;> exact command_faulted_of_badAxis haxis
  · exact command_faulted_of_nonzero_axis haxis
  · exact command_faulted_of_nonzero_axis haxis

/-- Settles O34: with the axis right, the operand's check is the next to decide, and comes before the busy checks. The
index of `SEQ_WRITE` is checked after its must-be-0 bits. -/
theorem operandFaults : Obligations.OperandFaults := by
  intro s axis haxis _
  have hoperand {failed : Bool} {c : Cause} {rest : List (Bool × Cause)} {effect : State} :=
    command_faulted_of_operand (failed := failed) (c := c) (rest := rest) (effect := effect) haxis
  refine ⟨fun d r hr => hoperand (decide_eq_true hr), fun x e r hr => hoperand (decide_eq_true hr),
    hoperand rfl, hoperand rfl, hoperand rfl,
    fun p hp => ⟨hoperand (decide_eq_true hp), command_faulted ?period⟩,
    fun x e hx => command_faulted ?index, fun n hn => hoperand (decide_eq_true hn)⟩
  case period => exact (firstFault_of_passed rfl _ _).trans (firstFault_of_failed (decide_eq_true hp) _ _)
  case index =>
    exact (firstFault_axisCheck haxis _).trans
      ((firstFault_of_passed rfl _ _).trans (firstFault_of_failed (decide_eq_true hx) _ _))

/-- Settles O36: the command executor decodes what stands on the port, and what it decodes is well formed. -/
theorem stepRunsTheCommand : Obligations.StepRunsTheCommand := by
  intro s i hreset hdue hdecode
  have hstep : step s = runCommand s := step_of_due_eq_singleton hreset hdue
  exact ⟨(decodeCommand_wf hdecode).2, hstep.trans (runCommand_of_ok hdecode)⟩

end Sys2Proof.Machine
end

section
/-! The host's side of the encoding: what `SEQ_LOAD` leaves in the sequence memory (30_encoding R105), and what the wire
binding accepts (R106 to R108). -/

namespace Sys2Proof.Machine

/-! ### `SEQ_LOAD` -/

section
variable {s : State} {axis : Byte}

/-- The memory after entries were written in order on axis `a`, from index `i` on. -/
def storeEntries (a : Nat) : Nat → List Entry → List Host.Cell → List Host.Cell
  | _, [], m => m
  | i, e :: rest, m => storeEntries a (i + 1) rest (memWrite m (cellOf a i) (byteOfEntry e))

/-- The writes leave every place below and above theirs. -/
theorem memRead_storeEntries_outside {a k : Nat} {entries : List Entry} {i : Nat}
    (hk : k < cellOf a i ∨ cellOf a i + entries.length ≤ k) (m : List Host.Cell) :
    memRead (storeEntries a i entries m) k = memRead m k := by
  induction entries generalizing i m with
  | nil => rfl
  | cons e rest ih =>
    simp only [List.length_cons, cellOf] at hk
    rw [storeEntries, ih (by simp only [cellOf]; omega), memRead_memWrite_ne _ (by simp only [cellOf]; omega)]

/-- Entry `j` of the list stands at its place: the later writes are above it. -/
theorem memRead_storeEntries_inside {a : Nat} {entries : List Entry} {i j : Nat} {e : Entry}
    (he : entries[j]? = some e) (m : List Host.Cell) :
    memRead (storeEntries a i entries m) (cellOf a (i + j)) = some (byteOfEntry e) := by
  induction entries generalizing i j m with
  | nil => simp at he
  | cons d rest ih =>
    rw [storeEntries]
    cases j with
    | zero =>
      obtain rfl : d = e := by simpa using he
      rw [memRead_storeEntries_outside (.inl (by simp [cellOf])), Nat.add_zero, memRead_memWrite_self]
    | succ j =>
      rw [show i + (j + 1) = i + 1 + j by omega]
      exact ih (by simpa using he) _

theorem exec_seqWrite {index : BitVec 16} (haxis : axis.toNat < s.inst.nAxes)
    (hindex : index.toNat < s.inst.seqDepth) (hstill : s.seqRun = false) (e : Entry) :
    exec (.seqWrite axis index e 0) s = .next (respond 0 (seqStore axis.toNat index.toNat e s)) :=
  command_passes (by simp [axisCheck, State.badAxis, seqRunCheck, haxis, hindex, hstill])

theorem exec_seqSetLen {len : Nat} (haxis : axis.toNat < s.inst.nAxes) (hlen : len ≤ s.inst.seqDepth)
    (hstill : s.seqRun = false) :
    exec (.seqSetLen axis len) s = .next (respond 0 (modAx axis.toNat (fun x => { x with seqLen := len }) s)) :=
  command_passes (by simp [axisCheck, State.badAxis, seqRunCheck, haxis, hlen, hstill])

/-- The state after `SEQ_LOAD`'s writes from index `i` on and the length `len`. -/
def afterSeqLoad (a i len : Nat) (entries : List Entry) (s : State) : State :=
  respond 0 (modAx a (fun x => { x with seqLen := len }) { s with mem := storeEntries a i entries s.mem })

/-- The state after one command, when there is one. -/
def execNext (s : State) (i : Instr) : Option State :=
  match exec i s with
  | .next t => some t
  | .fault _ => none
  | .refused _ => none

theorem execNext_of_next {i : Instr} {t : State} (h : exec i s = .next t) : execNext s i = some t := by
  simp only [execNext, h]

/-- The writes from index `i` on and the length, run one after the other. Each write's response is overwritten by the
next. -/
theorem foldlM_seqLoadWrites {i len : Nat} {entries : List Entry} (haxis : axis.toNat < s.inst.nAxes)
    (hfits : i + entries.length ≤ s.inst.seqDepth) (hdepth : s.inst.seqDepth ≤ 65535)
    (hlen : len ≤ s.inst.seqDepth) (hstill : s.seqRun = false) :
    (seqLoadWrites axis i entries ++ [Instr.seqSetLen axis len]).foldlM execNext s
      = some (afterSeqLoad axis.toNat i len entries s) := by
  induction entries generalizing i s with
  | nil =>
    rw [seqLoadWrites, List.nil_append, List.foldlM_cons, execNext_of_next (exec_seqSetLen haxis hlen hstill)]
    rfl
  | cons e rest ih =>
    rw [List.length_cons] at hfits
    have hindex : (BitVec.ofNat 16 i).toNat = i := by rw [BitVec.toNat_ofNat]; omega
    have hwrite := exec_seqWrite haxis (index := BitVec.ofNat 16 i) (by omega) hstill e
    rw [hindex] at hwrite
    rw [seqLoadWrites, List.cons_append, List.foldlM_cons, execNext_of_next hwrite]
    exact ih (s := respond 0 (seqStore axis.toNat i e s)) haxis (by rw [respond_inst, seqStore_inst]; omega)
      hdepth hlen hstill

end

/-- Settles O56: the commands of `SEQ_LOAD` leave the loaded state, whose memory is the old one with the entries
stored. -/
theorem seqLoadLoadsTheSequence : Obligations.SeqLoadLoadsTheSequence := by
  intro s axis entries hshaped haxis hfits hdepth hstill
  have hinside : axis.toNat < s.axes.length := haxis.trans_eq hshaped.symm
  refine ⟨afterSeqLoad axis.toNat 0 entries.length entries s, ?run, ?axis, ?inside, ?outside,
    ⟨rfl, rfl, rfl, rfl⟩, ⟨rfl, rfl, rfl, rfl, rfl, rfl⟩, ⟨rfl, rfl, rfl, rfl, rfl, rfl, rfl, rfl, rfl⟩,
    ⟨rfl, rfl, rfl⟩⟩
  case run => exact foldlM_seqLoadWrites haxis ((Nat.zero_add _).trans_le hfits) hdepth hfits hstill
  case axis => exact ⟨ax_modAx_self hinside _, fun b hb => ax_modAx_ne hb _ s, modAx_axes_length axis.toNat _ s⟩
  case inside =>
    intro i e he
    have hread := memRead_storeEntries_inside (a := axis.toNat) (i := 0) he s.mem
    rw [Nat.zero_add] at hread
    simp [State.seqRead, afterSeqLoad, hread]
  case outside =>
    intro k hk
    exact memRead_storeEntries_outside (by simpa [cellOf] using hk) s.mem

/-! ### The wire binding -/

/-- The binding takes a value exactly when the scaled value is an operand. -/
theorem wireArg_eq_some_iff {scale v : Rat} {k : Int} :
    wireArg scale v = some k ↔ v * scale = k ∧ fitsSigned k = true := by
  unfold wireArg
  constructor
  · intro h
    split at h
    · next hfits =>
      cases h
      exact ⟨(Rat.coe_int_num_of_den_eq_one hfits.1).symm, hfits.2⟩
    · cases h
  · rintro ⟨hk, hfits⟩
    simp [hk, hfits]

theorem fitsSigned_iff {k : Int} : fitsSigned k = true ↔ -2 ^ 31 ≤ k ∧ k ≤ 2 ^ 31 - 1 := by
  simp [fitsSigned]

/-- A method with an argument binds the scaled value exactly when it is a 32-bit integer, and refuses every other. -/
theorem wireCommand_of_wireArg {m : WireMethod} {axis : Byte} {scale v : Rat} {make : Int → Instr}
    (h : wireCommand m axis v = (wireArg scale v).map make) :
    (∀ k : Int, v * scale = (k : Rat) → -2 ^ 31 ≤ k → k ≤ 2 ^ 31 - 1 → wireCommand m axis v = some (make k))
      ∧ ((¬ ∃ k : Int, v * scale = (k : Rat) ∧ -2 ^ 31 ≤ k ∧ k ≤ 2 ^ 31 - 1) → wireCommand m axis v = none) := by
  constructor
  · intro k hk hlow hhigh
    rw [h, wireArg_eq_some_iff.mpr ⟨hk, fitsSigned_iff.mpr ⟨hlow, hhigh⟩⟩, Option.map_some]
  · intro hnone
    rw [h, Option.map_eq_none_iff, Option.eq_none_iff_forall_ne_some]
    intro k hk
    obtain ⟨hscaled, hfits⟩ := wireArg_eq_some_iff.mp hk
    exact hnone ⟨k, hscaled, fitsSigned_iff.mp hfits⟩

/-- Whatever a method binds to is a command within its operand's range. -/
theorem wireCommand_wf {m : WireMethod} {axis : Byte} {v : Rat} {i : Instr} (h : wireCommand m axis v = some i) :
    i.wf = true ∧ i.isEntry = false := by
  cases m with
  | enable | disable | continuousMoving | stopContinuousMoving | stopSwing => cases h; exact ⟨rfl, rfl⟩
  | setReference | goToAngleAbsolute | goToAngleRelative | setSpeedPulseWidth | setSpeedRevPerSecond
  | setSpeedStepsPerSecond | setSpeedRevPerMinute | swing =>
    obtain ⟨k, hk, rfl⟩ := Option.map_eq_some_iff.mp h
    exact ⟨(wireArg_eq_some_iff.mp hk).2, rfl⟩

/-- Settles O57: method by method, by what the binding of an argument takes. -/
theorem wireBindingIsExact : Obligations.WireBindingIsExact := by
  refine ⟨fun m axis v i => wireCommand_wf, fun axis v => ⟨rfl, rfl, rfl, rfl, rfl⟩, fun axis v => ?_, ?_⟩
  · refine ⟨?_, ?_, ?_, ?_, ?_, ?_, ?_, ?_⟩ <;> exact wireCommand_of_wireArg rfl
  · have hexample : wireCommand .setReference 0 42 = some (.setReference 0 42000) :=
      (wireCommand_of_wireArg rfl).1 42000 (by norm_num) (by norm_num) (by norm_num)
    rw [hexample]
    rfl

end Sys2Proof.Machine
end

section
/-! The axis configuration commands (40_axis_config): what a per-axis command that completes did, the commands that
write the enable, the direction and the reference, and the pulse-width clamp with the speed setters. -/

namespace Sys2Proof.Machine

/-! ### What a per-axis command did -/

/-- Beside its axes, the second state has the pin events `events` more and drew `drawn` free values. The operations'
field lemmas give each clause. -/
structure SameBeside (s t : State) (events : List PinEvent) (drawn : Nat) : Prop extends SameBlock s t where
  world : SameWorld s t := by constructor <;> simp
  trace : t.trace = s.trace ++ events := by simp
  draws : t.draws = s.draws + drawn := by simp
  sticky : t.faultSticky = s.faultSticky := by simp

section
variable {s t : State} {axis : Byte} {a : Nat}

/-- A change of one axis, answered `OK` with data 0. -/
theorem respond_axisCommandDid {f : Axis → Axis} {events : List PinEvent} {drawn : Nat} (ha : a < s.axes.length)
    (same : SameBeside s t events drawn) (hax : ∀ b, t.ax b = (modAx a f s).ax b) :
    AxisCommandDid s (respond 0 t) a (f (s.ax a)) events drawn where
  axis := ⟨(hax a).trans (ax_modAx_self ha f), fun b hb => (hax b).trans (ax_modAx_ne hb f s), same.length⟩
  answer := ⟨rfl, rfl, rfl, rfl⟩
  sequencer := { same.sequencer with }
  memory k := by rw [respond_mem, same.mem]
  world := { same.world with }
  trace := same.trace
  draws := same.draws
  sticky := same.sticky

theorem Cause.code_ne_zero (c : Cause) : c.code ≠ 0 := by cases c <;> decide

theorem axisCheck_passes (h : axis.toNat < s.inst.nAxes) : (axisCheck s axis).1 = false :=
  decide_eq_false (not_le.mpr h)

theorem command_of_axis {effect : State} (haxis : axis.toNat < s.inst.nAxes) :
    command s [axisCheck s axis] effect = .next effect :=
  command_passes (List.forall_mem_singleton.mpr (axisCheck_passes haxis))

/-! ### Enable, direction and reference (R120 to R123) -/

theorem setEnable_did (ha : a < s.axes.length) (e : Bool) :
    AxisCommandDid s (respond 0 (setEnable a e s)) a { s.ax a with en := e, enPin := lvlEn s.inst e }
      [⟨s.now, .en a, lvlEn s.inst e⟩] 0 :=
  respond_axisCommandDid ha {} (ax_setEnable a e s)

theorem setDir_did (ha : a < s.axes.length) (d : Dir) :
    AxisCommandDid s (respond 0 (setDir a d s)) a { s.ax a with dir := d, dirPin := lvlDir s.inst d }
      [⟨s.now, .dir a, lvlDir s.inst d⟩] 0 :=
  respond_axisCommandDid ha {} (ax_setDir a d s)

theorem setRef_did (ha : a < s.axes.length) (r : Rat) :
    AxisCommandDid s (respond 0 (setRef a r s)) a { s.ax a with ref := r } [] 0 :=
  respond_axisCommandDid ha {} (ax_setRef a r s)

theorem lvlDir_eq_ite (p : Config.Params) (d : Dir) :
    lvlDir p d = if d = .fwd then p.dirLevelFwd else !p.dirLevelFwd := by
  cases d <;> rfl

theorem exec_setDirection (haxis : axis.toNat < s.inst.nAxes) (hfree : s.seqOwns axis.toNat = false) (d : Dir) :
    exec (.setDirection axis d 0) s = .next (respond 0 (setDir axis.toNat d s)) :=
  command_passes (by simp [axisCheck_passes haxis, seqOwnsCheck, hfree])

end

/-- Settles O7: the axis check is the only one, and the effect sets the enable and its pin. -/
theorem enableAndDisableComplete : Obligations.EnableAndDisableComplete := by
  refine ⟨fun s axis hshaped haxis => ?_, fun s axis haxis => ?_, fun axis arg => ?_⟩
  · have ha : axis.toNat < s.axes.length := haxis.trans_eq hshaped.symm
    exact ⟨⟨_, command_of_axis haxis, setEnable_did ha true⟩, ⟨_, command_of_axis haxis, setEnable_did ha false⟩⟩
  · exact ⟨command_faulted_of_badAxis haxis, command_faulted_of_badAxis haxis⟩
  · exact ⟨decodeCommand_commandWord _ axis arg, decodeCommand_commandWord _ axis arg⟩

/-- Settles O8: on an existing axis that the sequencer does not own every check passes. -/
theorem setDirectionCompletes : Obligations.SetDirectionCompletes := by
  intro s axis d hshaped haxis hfree
  rw [← lvlDir_eq_ite]
  exact ⟨_, exec_setDirection haxis hfree d, setDir_did (haxis.trans_eq hshaped.symm) d⟩

/-- Settles O9: the stored reference is the wrapped angle. -/
theorem setReferenceCompletes : Obligations.SetReferenceCompletes := by
  refine ⟨fun s axis mdeg hshaped haxis => ?_, fun s axis mdeg => command_faulted_of_badAxis,
    fun axis => decodeCommand_commandWord _ axis⟩
  obtain ⟨hlow, hhigh, k, hk⟩ := wrapStaysInTheTurn (degrees mdeg)
  exact ⟨_, wrap360 (degrees mdeg), k, command_of_axis haxis, hlow, hhigh, hk,
    setRef_did (haxis.trans_eq hshaped.symm) _⟩

/-! ### The pulse-width clamp (R124) -/

theorem clampPw_eq_min_max (q : Rat) : ((clampPw q : Nat) : Int) = min (2 ^ 32 - 1) (max 25 ⌊q⌋) := by
  have hfloor : clampPw q = min 4294967295 (max 25 ⌊q⌋).toNat := rfl
  omega

/-- What is not positive clamps to the floor of the width. -/
theorem clampPw_of_nonpos {q : Rat} (h : q ≤ 0) : clampPw q = 25 := by
  have hfloor : ⌊q⌋ ≤ 0 := Int.floor_nonpos h
  have hclamp := clampPw_eq_min_max q
  omega

theorem floor_eq_tdiv_of_pos {q : Rat} (h : 0 < q) : ⌊q⌋ = Int.tdiv q.num (q.den : Int) := by
  rw [Rat.floor_def', Int.tdiv_eq_ediv_of_nonneg (Rat.num_nonneg.mpr h.le)]

theorem tdiv_nonpos_of_nonpos {q : Rat} (h : q ≤ 0) : Int.tdiv q.num (q.den : Int) ≤ 0 := by
  have hneg : 0 ≤ Int.tdiv (-q.num) (q.den : Int) :=
    Int.tdiv_nonneg (neg_nonneg.mpr (Rat.num_nonpos.mpr h)) (Int.natCast_nonneg _)
  rw [Int.neg_tdiv] at hneg
  exact neg_nonneg.mp hneg

/-! ### The speed setters (R125 to R128, R130, R131) -/

/-- The axis with the clamp of `q` stored, and in the running generator too when `LIVE_PWM_UPDATE` says so. -/
def State.withWidth (s : State) (a : Nat) (q : Rat) : Axis :=
  { s.ax a with
    pw := clampPw q
    contPw := if s.inst.livePwmUpdate = true ∧ (s.ax a).cont = true then clampPw q else (s.ax a).contPw }

theorem widthOfStepRate_sps (k : Int) : widthOfStepRate (stepRateOfSps k) = 500000000 / (k : Rat) := by
  unfold widthOfStepRate stepRateOfSps; ring

theorem widthOfStepRate_rps (ratio : Rat) (k : Int) :
    widthOfStepRate (stepRateOfRps ratio k) = 500000000 / ((k : Rat) * ratio) := by
  unfold widthOfStepRate stepRateOfRps; ring

theorem widthOfStepRate_rpm (ratio : Rat) (k : Int) :
    widthOfStepRate (stepRateOfRpm ratio k) = 30000000000 / ((k : Rat) * ratio) := by
  unfold widthOfStepRate stepRateOfRpm; ring

section
variable {s t : State} {axis : Byte}

theorem storeWidth_did {a : Nat} (ha : a < s.axes.length) (q : Rat) :
    AxisCommandDid s (respond 0 (storeWidth a q s)) a (s.withWidth a q) [] 0 := by
  simpa only [State.withWidth, Bool.and_eq_true] using respond_axisCommandDid ha {} (ax_storeWidth a q s)

theorem command_of_rate {k : Int} {effect : State} (haxis : axis.toNat < s.inst.nAxes) (hk : k ≠ 0) :
    command s [axisCheck s axis, (decide (k = 0), .zeroRate)] effect = .next effect :=
  command_passes (by simp [axisCheck_passes haxis, hk])

/-- A setter that answers `OK` did not fault, so its axis exists and holds the clamp of its quotient. -/
theorem pw_of_storeWidth_command {rest : List (Bool × Cause)} {q : Rat} (hshaped : s.Shaped)
    (hrun : command s (axisCheck s axis :: rest) (respond 0 (storeWidth axis.toNat q s)) = .next t)
    (hok : t.rspStatus = 0) : (t.ax axis.toNat).pw = clampPw q := by
  revert hok
  refine command_keeps (P := fun u => u.rspStatus = 0 → (u.ax axis.toNat).pw = clampPw q) hrun
    (fun c hok => absurd hok c.code_ne_zero) fun hpass _ => ?_
  have haxis := axis_lt_of_check (hpass _ List.mem_cons_self)
  rw [(storeWidth_did (haxis.trans_eq hshaped.symm) q).axis.here]
  rfl

end

/-- Settles O10: each setter's quotient is the width of its step rate. -/
theorem speedSettersComplete : Obligations.SpeedSettersComplete := by
  intro s axis k hshaped haxis
  have hdid := storeWidth_did (s := s) (haxis.trans_eq hshaped.symm)
  refine ⟨⟨_, command_of_axis haxis, hdid k⟩, fun hk => ⟨?sps, ?rps, ?rpm⟩⟩
  case sps => exact ⟨_, command_of_rate haxis hk, widthOfStepRate_sps k ▸ hdid _⟩
  case rps => exact ⟨_, command_of_rate haxis hk, widthOfStepRate_rps _ k ▸ hdid _⟩
  case rpm => exact ⟨_, command_of_rate haxis hk, widthOfStepRate_rpm _ k ▸ hdid _⟩

/-- Settles O6: the clamp in integers, floor against truncation on either side of 0, and every setter's effect. -/
theorem clampFollowsItsRule : Obligations.ClampFollowsItsRule := by
  refine ⟨fun q => ⟨clampPw_eq_min_max q, floor_eq_tdiv_of_pos, fun hq => ⟨clampPw_of_nonpos hq, ?_⟩⟩, ?_⟩
  · exact max_eq_left ((tdiv_nonpos_of_nonpos hq).trans (by decide))
  · intro s t axis k i hshaped hi hrun hok
    simp only [List.mem_cons, List.not_mem_nil, or_false] at hi
    rcases hi with rfl | rfl | rfl | rfl <;> exact ⟨_, pw_of_storeWidth_command hshaped hrun hok⟩

end Sys2Proof.Machine
end

section
/-! Discrete motion (41_discrete_motion): the step count, the relative angle and the reference; how a move begins, and
the two edges of its engine. -/

namespace Sys2Proof.Machine

/-! ### The step count (R153) -/

theorem stepCount_eq_max (ratio rel : Rat) : ((stepCount ratio rel : Nat) : Int) = max 0 ⌊rel / 360 * ratio⌋ := by
  have hfloor : stepCount ratio rel = (max 0 ⌊rel / 360 * ratio⌋).toNat := rfl
  omega

theorem stepCount_of_neg {ratio rel : Rat} (hratio : 0 < ratio) (hrel : rel < 0) : stepCount ratio rel = 0 := by
  have hneg : ⌊rel / 360 * ratio⌋ ≤ 0 :=
    Int.floor_nonpos (mul_nonpos_of_nonpos_of_nonneg (by linarith) hratio.le)
  have hcount := stepCount_eq_max ratio rel
  omega

/-- More angle takes at least as many steps. -/
theorem stepCount_le_floor {ratio rel bound : Rat} (hratio : 0 ≤ ratio) (hbound : 0 ≤ bound) (hle : rel ≤ bound) :
    ((stepCount ratio rel : Nat) : Int) ≤ ⌊bound / 360 * ratio⌋ := by
  rw [stepCount_eq_max]
  refine max_le (Int.floor_nonneg.mpr (by positivity)) (Int.floor_mono ?_)
  gcongr

/-- The move record is now `m`. -/
@[simp] def recordMove (m : Move) (s : State) : State := { s with cmdState := .moving m }

section
variable {s t : State} {a : Nat} {rel : Rat}

theorem moveRel_of_no_step (h : stepCount (s.ratio a) rel = 0) : moveRel a rel s = respond 0 s :=
  if_pos h

/-- The move record at the start of a move of `n` steps on axis `a` (R150). -/
def State.firstMove (s : State) (a n : Nat) : Move :=
  ⟨a, n, .high, s.now + ((s.ax a).pw : Rat), (s.ax a).pw⟩

theorem moveRel_of_steps (h : stepCount (s.ratio a) rel ≠ 0) :
    moveRel a rel s
      = writeStep a true (recordMove (s.firstMove a (stepCount (s.ratio a) rel)) s) :=
  if_neg h

theorem moveRel_remaining {m : Move} (h : (moveRel a rel s).cmdState = .moving m) :
    m.remaining = stepCount (s.ratio a) rel := by
  by_cases hsteps : stepCount (s.ratio a) rel = 0
  · rw [moveRel_of_no_step hsteps] at h
    cases h
  · rw [moveRel_of_steps hsteps, writeStep_cmdState] at h
    cases h
    rfl

end

/-- Settles O11: the floor in integers, monotone in the angle, and the record that `GO_REL` leaves. -/
theorem stepCountIsTheFloor : Obligations.StepCountIsTheFloor := by
  refine ⟨fun ratio rel hratio => ⟨stepCount_eq_max ratio rel, stepCount_of_neg hratio, fun mdeg hmdeg => ?_⟩, ?_⟩
  · have hangle : (mdeg : Rat) / 1000 ≤ (2 ^ 31 - 1) / 1000 := by
      have hcast : (mdeg : Rat) ≤ 2 ^ 31 - 1 := by exact_mod_cast hmdeg
      linarith
    have hcount := stepCount_le_floor hratio.le (by norm_num) hangle
    rwa [div_div, show (1000 : Rat) * 360 = 360000 by norm_num] at hcount
  · intro s t axis mdeg m hrun
    refine command_keeps (P := fun u => u.cmdState = .moving m → _) hrun (fun c hmoving => ?_) fun _ hmoving => ?_
    · cases hmoving
    · rw [moveRel_remaining hmoving]
      exact stepCount_eq_max _ _

/-! ### The relative angle (R158, R160) -/

theorem relAngle_fwd_of_le {ref t : Rat} (h : ref ≤ t) : relAngle .fwd ref t = t - ref := if_pos h

theorem relAngle_fwd_of_lt {ref t : Rat} (h : t < ref) : relAngle .fwd ref t = t + 360 - ref :=
  if_neg (not_le.mpr h)

theorem relAngle_rev_of_le {ref t : Rat} (h : t ≤ ref) : relAngle .rev ref t = ref - t := if_pos h

theorem relAngle_rev_of_lt {ref t : Rat} (h : ref < t) : relAngle .rev ref t = ref + 360 - t :=
  if_neg (not_le.mpr h)

/-- Within the turn the relative angle is within the turn, either way round. -/
theorem relAngle_range {ref t : Rat} (href : 0 ≤ ref) (href' : ref < 360) (ht : 0 ≤ t) (ht' : t < 360) (d : Dir) :
    0 ≤ relAngle d ref t ∧ relAngle d ref t < 360 := by
  cases d with
  | fwd =>
    rcases le_or_gt ref t with h | h
    · rw [relAngle_fwd_of_le h]; constructor <;> linarith
    · rw [relAngle_fwd_of_lt h]; constructor <;> linarith
  | rev =>
    rcases le_or_gt t ref with h | h
    · rw [relAngle_rev_of_le h]; constructor <;> linarith
    · rw [relAngle_rev_of_lt h]; constructor <;> linarith

/-- Settles O12: a target past the turn, or before it, falls on one side of every reference. -/
theorem relativeAngleIsDirectionSticky : Obligations.RelativeAngleIsDirectionSticky := by
  refine fun ref t => ⟨rfl, rfl, fun href href' => ⟨relAngle_range href href', fun ht => ?_, fun ht => ?_⟩⟩
  · exact relAngle_fwd_of_le (by linarith)
  · have hlt : t < ref := ht.trans_le href
    rw [relAngle_fwd_of_lt hlt, relAngle_rev_of_le hlt.le]
    exact ⟨rfl, ⟨fun h => by linarith, fun h => by linarith⟩, rfl, by linarith⟩

/-! ### The reference after some steps (R152) -/

theorem wrap360_of_mem_turn {q : Rat} (h : 0 ≤ q) (h' : q < 360) : wrap360 q = q := by
  rw [wrap360_eq_fract, Int.fract_eq_self.mpr ⟨by positivity, by linarith⟩, mul_div_cancel₀ q (by norm_num)]

/-- Whole turns do not matter. -/
theorem wrap360_sub_turns (q : Rat) (k : Int) : wrap360 (q - 360 * (k : Rat)) = wrap360 q := by
  rw [wrap360_eq_fract, sub_div, mul_div_cancel_left₀ (k : Rat) (by norm_num), Int.fract_sub_intCast, wrap360_eq_fract]

/-- An angle may be wrapped before another is added to it. -/
theorem wrap360_wrap360_add (q δ : Rat) : wrap360 (wrap360 q + δ) = wrap360 (q + δ) := by
  obtain ⟨-, -, k, hk⟩ := wrapStaysInTheTurn q
  rw [hk, sub_add_eq_add_sub, wrap360_sub_turns]

theorem iterate_wrap360_add (δ : Rat) {r : Rat} (h : 0 ≤ r) (h' : r < 360) (n : Nat) :
    (fun q => wrap360 (q + δ))^[n] r = wrap360 (r + n * δ) := by
  induction n with
  | zero => simp [wrap360_of_mem_turn h h']
  | succ n ih =>
    rw [Function.iterate_succ_apply', ih, wrap360_wrap360_add]
    push_cast
    ring_nf

/-- Settles O13: a step adds a signed angle and wraps, and wrapping early loses nothing. -/
theorem referenceAfterStepsIsExact : Obligations.ReferenceAfterStepsIsExact := by
  intro ratio r n h h'
  refine ⟨iterate_wrap360_add (360 / ratio) h h' n, ?_⟩
  have hrev : refAfterStep ratio .rev = fun q => wrap360 (q + -(360 / ratio)) :=
    funext fun q => congrArg wrap360 (sub_eq_add_neg q _)
  rw [hrev, iterate_wrap360_add _ h h', mul_neg, ← sub_eq_add_neg]

/-! ### A pulse of a move: the edge on the step output and the record of what comes next -/

theorem modAx_id (a : Nat) (s : State) : modAx a id s = s := by
  rw [modAx, List.modify_id]

/-- An edge of a move: the record is now `m`, the step output of its axis is driven to `l` and the axis is now `x`, and
nothing else changed. -/
structure Pulses (s t : State) (m : Move) (l : Bool) (x : Axis) : Prop
    extends SameBeside s t [⟨s.now, .step m.axis, l⟩] 0 where
  record : t.cmdState = .moving m
  axis : OnlyAxis s t m.axis x
  rspStatus : t.rspStatus = s.rspStatus
  rspData : t.rspData = s.rspData
  rspValid : t.rspValid = s.rspValid

section
variable {s : State} {m : Move}

/-- The pulse that follows a change of the axis (the update of the reference). -/
theorem writeStep_modAx_pulses {f : Axis → Axis} (ha : m.axis < s.axes.length)
    (hcont : (f (s.ax m.axis)).cont = false) (l : Bool) :
    Pulses s (writeStep m.axis l (recordMove m (modAx m.axis f s))) m l
      { f (s.ax m.axis) with stepPin := l } := by
  have hrecord (b : Nat) : (recordMove m (modAx m.axis f s)).ax b = (modAx m.axis f s).ax b := rfl
  rw [writeStep_eq_driveStep (by rwa [hrecord, ax_modAx_self ha])]
  have hax (b : Nat) : (driveStep m.axis l (recordMove m (modAx m.axis f s))).ax b
      = (modAx m.axis (fun x => { f x with stepPin := l }) s).ax b := by
    rw [← modAx_modAx m.axis (fun x => { x with stepPin := l }) f]
    rfl
  exact {
    record := rfl
    axis := ⟨(hax _).trans (ax_modAx_self ha _), fun b hb => (hax b).trans (ax_modAx_ne hb _ s), by simp⟩
    rspStatus := rfl
    rspData := rfl
    rspValid := rfl }

theorem writeStep_pulses (ha : m.axis < s.axes.length) (hcont : (s.ax m.axis).cont = false) (l : Bool) :
    Pulses s (writeStep m.axis l (recordMove m s)) m l { s.ax m.axis with stepPin := l } := by
  have hpulse := writeStep_modAx_pulses (f := id) ha hcont l
  rwa [modAx_id] at hpulse

/-! ### How a move begins (R150, R157, R161) -/

theorem respond_did {a : Nat} (ha : a < s.axes.length) :
    AxisCommandDid s (respond 0 s) a (s.ax a) [] 0 :=
  respond_axisCommandDid (f := id) ha {} fun b => by rw [modAx_id]

theorem Pulses.moveBegan {t : State} {a n : Nat} {x : Axis} (h : Pulses s t (s.firstMove a n) true x)
    (hx : x = { s.ax a with stepPin := true }) : MoveBegan s t a n where
  record := h.record
  axis := hx ▸ h.axis
  trace := h.trace
  rspStatus := h.rspStatus
  rspData := h.rspData
  rspValid := h.rspValid
  sequencer := h.sequencer
  memory k := by rw [h.mem]
  world := h.world
  draws := h.draws
  sticky := h.sticky

theorem moveRel_outcome {a : Nat} (ha : a < s.axes.length) (hcont : (s.ax a).cont = false) (rel : Rat) :
    if stepCount (s.ratio a) rel = 0 then AxisCommandDid s (moveRel a rel s) a (s.ax a) [] 0
    else MoveBegan s (moveRel a rel s) a (stepCount (s.ratio a) rel) := by
  split
  · next hsteps =>
    rw [moveRel_of_no_step hsteps]
    exact respond_did ha
  · next hsteps =>
    rw [moveRel_of_steps hsteps]
    exact (writeStep_pulses (m := s.firstMove a _) ha hcont true).moveBegan rfl

/-- The three checks of a move (60_exceptions R262). -/
theorem command_of_free_axis {axis : Byte} {effect : State} (haxis : axis.toNat < s.inst.nAxes)
    (hfree : s.seqOwns axis.toNat = false) (hstill : s.contBusy axis.toNat = false) :
    command s [axisCheck s axis, seqOwnsCheck s axis, contBusyCheck s axis] effect = .next effect :=
  command_passes (by simp [axisCheck_passes haxis, seqOwnsCheck, hfree, contBusyCheck, hstill])

end

/-- Settles O14: every check passes, and the effect answers or begins the move by its step count. -/
theorem movesBegin : Obligations.MovesBegin := by
  intro s axis mdeg hshaped haxis hfree hstill
  have ha : axis.toNat < s.axes.length := haxis.trans_eq hshaped.symm
  have hcont := (still_of_contBusy hstill).1
  exact ⟨⟨_, command_of_free_axis haxis hfree hstill, moveRel_outcome ha hcont _⟩,
    ⟨_, command_of_free_axis haxis hfree hstill, moveRel_outcome ha hcont _⟩⟩

/-! ### The two edges of the move engine (R151, R152, R155) -/

/-- The record after the high phase. -/
def Move.lowered (m : Move) : Move := { m with phase := .low, phaseEnd := m.phaseEnd + (m.width : Rat) }

/-- The record after a low phase that was not the last. -/
def Move.raised (m : Move) : Move :=
  { m with remaining := m.remaining - 1, phase := .high, phaseEnd := m.phaseEnd + (m.width : Rat) }

/-- Axis `a` after the update of its reference (R152). -/
def State.steppedAxis (s : State) (a : Nat) : Axis :=
  { s.ax a with ref := refAfterStep (s.ratio a) (s.ax a).dir (s.ax a).ref }

section
variable {s : State} {m : Move}

theorem perform_move (h : s.cmdState = .moving m) : perform .move s = .next (moveStep m s) := by
  simp only [perform, h]

theorem moveStep_of_high (h : m.phase = .high) : moveStep m s = endHigh m s := by
  simp only [moveStep, h]

theorem moveStep_of_low (h : m.phase = .low) : moveStep m s = endLow m s := by
  simp only [moveStep, h]

theorem endLow_of_last (h : m.remaining ≤ 1) : endLow m s = respond 0 (updateRef m.axis s) :=
  if_pos (by omega)

theorem endLow_of_more (h : 2 ≤ m.remaining) :
    endLow m s = writeStep m.axis true (recordMove m.raised (updateRef m.axis s)) :=
  if_neg (by omega)

theorem endHigh_pulses (ha : m.axis < s.axes.length) (hcont : (s.ax m.axis).cont = false) :
    Pulses s (endHigh m s) m.lowered false { s.ax m.axis with stepPin := false } :=
  writeStep_pulses (m := m.lowered) ha hcont false

theorem endLow_pulses (ha : m.axis < s.axes.length) (hcont : (s.ax m.axis).cont = false) (hmore : 2 ≤ m.remaining) :
    Pulses s (endLow m s) m.raised true { s.steppedAxis m.axis with stepPin := true } := by
  rw [endLow_of_more hmore]
  exact writeStep_modAx_pulses (m := m.raised)
    (f := fun x => { x with ref := refAfterStep (s.ratio m.axis) (s.ax m.axis).dir (s.ax m.axis).ref }) ha hcont true

theorem endLow_did (ha : m.axis < s.axes.length) (hlast : m.remaining ≤ 1) :
    AxisCommandDid s (endLow m s) m.axis (s.steppedAxis m.axis) [] 0 := by
  rw [endLow_of_last hlast]
  exact setRef_did ha _

/-- All a step of the engine can do: the pulse falls, the last step answers, or the next pulse rises. -/
theorem moveStep_cases (ha : m.axis < s.axes.length) (hcont : (s.ax m.axis).cont = false) :
    (m.phase = .high ∧ Pulses s (moveStep m s) m.lowered false { s.ax m.axis with stepPin := false })
      ∨ (m.phase = .low ∧ m.remaining ≤ 1
        ∧ AxisCommandDid s (moveStep m s) m.axis (s.steppedAxis m.axis) [] 0)
      ∨ (m.phase = .low ∧ 2 ≤ m.remaining
        ∧ Pulses s (moveStep m s) m.raised true { s.steppedAxis m.axis with stepPin := true }) := by
  cases hphase : m.phase with
  | high =>
    rw [moveStep_of_high hphase]
    exact .inl ⟨rfl, endHigh_pulses ha hcont⟩
  | low =>
    rw [moveStep_of_low hphase]
    rcases le_or_gt m.remaining 1 with hlast | hmore
    · exact .inr (.inl ⟨rfl, hlast, endLow_did ha hlast⟩)
    · exact .inr (.inr ⟨rfl, hmore, endLow_pulses ha hcont hmore⟩)

end

/-- Settles O15, by the cases of an engine step. -/
theorem moveEngineEdges : Obligations.MoveEngineEdges := by
  intro s m hshaped haxis hcont hmoving
  refine ⟨_, perform_move hmoving, ?_⟩
  rcases moveStep_cases (haxis.trans_eq hshaped.symm) hcont with ⟨hphase, h⟩ | ⟨hphase, hlast, h⟩ | ⟨hphase, hmore, h⟩
  · refine ⟨h.sequencer, fun k => by rw [h.mem], h.world, h.draws, h.sticky,
      fun _ => ⟨h.record, h.axis, h.trace, h.rspValid, h.rspStatus, h.rspData⟩, ?_, ?_⟩ <;> simp [hphase]
  · refine ⟨h.sequencer, h.memory, h.world, h.draws, h.sticky, ?_,
      fun _ _ => ⟨h.answer, by rw [h.trace, List.append_nil], h.axis⟩, fun _ _ => by omega⟩
    simp [hphase]
  · refine ⟨h.sequencer, fun k => by rw [h.mem], h.world, h.draws, h.sticky, ?_, fun _ _ => by omega,
      fun _ _ => ⟨h.record, h.trace, h.axis, h.rspValid, h.rspStatus, h.rspData⟩⟩
    simp [hphase]

end Sys2Proof.Machine
end

section
/-! While a move runs its axis is the engine's alone, and no command is accepted (41_discrete_motion R156). -/

namespace Sys2Proof.Machine

/-- A step that leaves axis `a` and the move record as they are, and accepts no command. -/
structure LeavesMove (s t : State) (a : Nat) : Prop where
  axis : t.ax a = s.ax a
  record : t.cmdState = s.cmdState
  waits : s.cmdValid = true → t.cmdValid = true

section
variable {s t u : State} {a b : Nat} {m : Move}

theorem LeavesMove.refl (s : State) (a : Nat) : LeavesMove s s a := ⟨rfl, rfl, id⟩

theorem LeavesMove.trans (h : LeavesMove s t a) (h' : LeavesMove t u a) : LeavesMove s u a :=
  ⟨h'.axis.trans h.axis, h'.record.trans h.record, h'.waits ∘ h.waits⟩

/-! ### What the operations leave -/

/-- A change of another axis. -/
theorem leavesMove_of_modAx {f : Axis → Axis} (hne : a ≠ b) (hax : ∀ c, t.ax c = (modAx b f s).ax c)
    (hrecord : t.cmdState = s.cmdState) (hvalid : t.cmdValid = s.cmdValid) : LeavesMove s t a :=
  ⟨(hax a).trans (ax_modAx_ne hne f s), hrecord, hvalid.trans⟩

theorem writeStep_leavesMove (hne : a ≠ b) (l : Bool) (s : State) : LeavesMove s (writeStep b l s) a := by
  unfold writeStep
  split
  · exact .refl s a
  · exact leavesMove_of_modAx hne (ax_driveStep b l s) rfl rfl

theorem playEntry_leavesMove (hne : a ≠ b) (e : Entry) (s : State) : LeavesMove s (playEntry b e s) a :=
  (writeStep_leavesMove hne e.pulse s).trans (leavesMove_of_modAx hne (ax_writeDir b _ _) rfl rfl)

/-- A tick plays on its lanes alone. -/
theorem playLanes_leavesMove {lanes : List Nat} (hlane : a ∉ lanes) (hrun : playLanes lanes s = .next t) :
    LeavesMove s t a := by
  induction lanes generalizing s with
  | nil => cases hrun; exact .refl _ a
  | cons b rest ih =>
    obtain ⟨hne, hrest⟩ := List.ne_and_not_mem_of_not_mem_cons hlane
    obtain ⟨e, he⟩ := fetchEntry_eq_toInstr s b
    rw [playLanes, he, exec_toInstr] at hrun
    have hchoice : LeavesMove s { s with lane := b } a := ⟨rfl, rfl, id⟩
    exact (hchoice.trans (playEntry_leavesMove hne e _)).trans (ih hrest hrun)

theorem tick_leavesMove {lanes : List Nat} (hlane : a ∉ lanes) (hrun : playLanes lanes s = .next t) (time : Time) :
    LeavesMove s (advanceIndex time (reorderTick s t)) a := by
  obtain ⟨haxis, hrecord, hwaits⟩ := playLanes_leavesMove hlane hrun
  unfold advanceIndex
  split <;> exact ⟨haxis, hrecord, hwaits⟩

theorem presentCommand_leavesMove (s : State) (a : Nat) : LeavesMove s (presentCommand s) a := by
  unfold presentCommand
  split
  · exact .refl s a
  · exact ⟨rfl, rfl, fun _ => rfl⟩

/-- A change of `RESET` that does not assert it. -/
theorem resetEdge_leavesMove (hlow : (resetEdge s).resetIn = false) (a : Nat) : LeavesMove s (resetEdge s) a := by
  unfold resetEdge at hlow ⊢
  split
  · exact .refl s a
  · next e rest hstream =>
    cases hlevel : e.level with
    | true => simp [hstream, hlevel] at hlow
    | false => exact ⟨rfl, rfl, id⟩

theorem passTime_leavesMove (s : State) (a : Nat) : LeavesMove s (passTime s) a := by
  rw [passTime_eq]
  exact ⟨rfl, rfl, id⟩

/-! ### What the agents leave -/

theorem agentTime_cmd_of_moving (h : s.cmdState = .moving m) : s.agentTime .cmd = none := by
  simp [State.agentTime, State.cmdReady, h]

/-- Every agent that has a step to take, but the engine, leaves the move alone: the sequencer, the swing timers and the
generators have other axes, and the command executor waits. -/
theorem Acts.leavesMove {g : Agent} {time : Time} (hact : Acts s g t) (hgood : s.MoveGood m)
    (hmoving : s.cmdState = .moving m) (hlow : t.resetIn = false) (htime : s.agentTime g = some time)
    (hengine : g ≠ .move) : LeavesMove s t m.axis := by
  obtain ⟨hcont, hswing⟩ := still_of_contBusy hgood.not_busy
  cases hact with
  | nothing => exact .refl s m.axis
  | present => exact presentCommand_leavesMove s m.axis
  | reset => exact resetEdge_leavesMove hlow m.axis
  | command | illegal =>
    rw [agentTime_cmd_of_moving hmoving] at htime
    cases htime
  | move => exact absurd rfl hengine
  | tick _ _ hlanes =>
    have hlane : m.axis ∉ s.lanes := fun hmem =>
      absurd hgood.not_seq (by simp [seqOwns_of_mem_lanes (agentTime_seq.mp htime).1 hmem])
    exact tick_leavesMove hlane hlanes _
  | @toggle b =>
    have hne : m.axis ≠ b := fun heq => absurd (agentTime_swg.mp htime).1 (by simp [← heq, hswing])
    exact leavesMove_of_modAx hne (ax_swingToggle b _ s) rfl rfl
  | @edge b =>
    have hne : m.axis ≠ b := fun heq => absurd (agentTime_pwm.mp htime).1 (by simp [← heq, hcont])
    exact leavesMove_of_modAx hne (ax_pwmEdge b _ s) rfl rfl

/-! ### What the engine writes -/

/-- The record after an engine step is never the one before it. -/
theorem moveStep_cmdState_ne (m : Move) (s : State) : (moveStep m s).cmdState ≠ .moving m := by
  cases hphase : m.phase with
  | high =>
    rw [moveStep_of_high hphase, endHigh, writeStep_cmdState]
    intro heq
    cases (congrArg Move.phase (CmdState.moving.inj heq)).trans hphase
  | low =>
    rw [moveStep_of_low hphase]
    rcases le_or_gt m.remaining 1 with hlast | hmore
    · rw [endLow_of_last hlast]
      nofun
    · rw [endLow_of_more hmore, writeStep_cmdState]
      intro heq
      cases (congrArg Move.phase (CmdState.moving.inj heq)).trans hphase

theorem writeStep_withDraws (a : Nat) (l : Bool) (s : State) (d : Nat) :
    { writeStep a l s with draws := d } = writeStep a l { s with draws := d } := by
  cases hcont : (s.ax a).cont with
  | true => rw [writeStep_eq_self hcont, writeStep_eq_self (s := { s with draws := d }) hcont]
  | false =>
    rw [writeStep_eq_driveStep hcont, writeStep_eq_driveStep (s := { s with draws := d }) hcont]
    rfl

/-- The engine draws no free value, and how many were drawn makes no difference to it. -/
theorem moveStep_withDraws (m : Move) (s : State) (k d : Nat) :
    { moveStep m { s with draws := k } with draws := d } = moveStep m { s with draws := d } := by
  cases hphase : m.phase with
  | high =>
    rw [moveStep_of_high hphase, moveStep_of_high hphase]
    exact writeStep_withDraws m.axis false _ d
  | low =>
    rw [moveStep_of_low hphase, moveStep_of_low hphase]
    rcases le_or_gt m.remaining 1 with hlast | hmore
    · rw [endLow_of_last hlast, endLow_of_last hlast]
      rfl
    · rw [endLow_of_more hmore, endLow_of_more hmore]
      exact writeStep_withDraws m.axis true _ d

theorem eq_with_pulse_and_ref {x y : Axis} {l : Bool} {r : Rat} (h : y = { x with stepPin := l, ref := r }) :
    y = { x with stepPin := y.stepPin, ref := y.ref } := by
  subst h; rfl

/-- Of its axis the engine writes the step output and the reference alone, and it accepts no command. -/
theorem moveStep_writes (ha : m.axis < s.axes.length) (hcont : (s.ax m.axis).cont = false) :
    (moveStep m s).ax m.axis
        = { s.ax m.axis with
            stepPin := ((moveStep m s).ax m.axis).stepPin
            ref := ((moveStep m s).ax m.axis).ref }
      ∧ (moveStep m s).cmdValid = s.cmdValid := by
  rcases moveStep_cases ha hcont with ⟨-, h⟩ | ⟨-, -, h⟩ | ⟨-, -, h⟩ <;>
    exact ⟨eq_with_pulse_and_ref h.axis.here, h.world.cmdValid⟩

/-! ### A step while a move runs -/

theorem agentTime_withDraws (s : State) (k : Nat) (g : Agent) : { s with draws := k }.agentTime g = s.agentTime g := by
  cases g <;> rfl

/-- While a move runs, a step without a reset is one of the engine, or leaves the move alone. -/
theorem step_of_moving (hgood : s.MoveGood m) (hstep : step s = .next t) (hlow : s.resetIn = false)
    (hlow' : t.resetIn = false) (hmoving : s.cmdState = .moving m) :
    (∃ k, t = moveStep m { s with draws := k }) ∨ LeavesMove s t m.axis := by
  rcases step_cases hstep with ⟨g, hdue, k, hg⟩ | ⟨-, rfl⟩
  · rw [holdReset_eq_self hlow] at hdue hg
    by_cases hengine : g = .move
    · rw [hengine, perform_move (s := { s with draws := k }) hmoving] at hg
      cases hg
      exact .inl ⟨k, rfl⟩
    · obtain ⟨-, time, htime, -⟩ := mem_due hdue
      have hgood' : { s with draws := k }.MoveGood m := { hgood with }
      have hleaves := (acts_of_perform hg).leavesMove hgood' hmoving hlow'
        ((agentTime_withDraws s k g).trans htime) hengine
      exact .inr { hleaves with }
  · rw [holdReset_eq_self hlow]
    exact .inr (passTime_leavesMove s m.axis)

end

/-- Settles O49: a step of the engine writes what it may, and any other leaves the move alone. -/
theorem movingAxisIsLeftAlone : Obligations.MovingAxisIsLeftAlone := by
  intro s t m hinv hstep hlow hlow' hmoving
  have hgood := hinv.move_good m hmoving
  rcases step_of_moving hgood hstep hlow hlow' hmoving with ⟨k, rfl⟩ | h
  · obtain ⟨haxis, hvalid⟩ := moveStep_writes (s := { s with draws := k }) (m := m)
      (hgood.axis_lt.trans_eq hinv.axes_length.symm) (still_of_contBusy hgood.not_busy).1
    refine ⟨haxis, fun hsame => absurd (hsame.trans hmoving) (moveStep_cmdState_ne m _), fun _ => ?_, hvalid.trans⟩
    rw [perform_move hmoving, moveStep_withDraws]
  · exact ⟨by rw [h.axis], fun _ => h.axis, fun hne => absurd h.record hne, h.waits⟩

end Sys2Proof.Machine
end

section
/-! The whole run of a move, alone (41_discrete_motion R151 to R155): a half of a step at a time, then by induction on the
steps left. -/

namespace Sys2Proof.Machine

/-! ### The engine is alone -/

theorem run_succ {M : Host.Core} {s t : M.State} (h : M.step s = .next t) (k : Nat) : M.run (k + 1) s = M.run k t := by
  simp only [Host.Core.run, h]

theorem isDue_of_agentTime_eq_none {s : State} {g : Agent} (h : s.agentTime g = none) : s.isDue g = false := by
  simp only [State.isDue, h, Bool.and_false]

/-- A move runs, and nothing else does or is to come. -/
structure Alone (s : State) (m : Move) : Prop where
  inv : s.Inv
  quiet : s.Quiet
  no_sequence : s.seqRun = false
  moving : s.cmdState = .moving m

namespace Alone
variable {s : State} {m : Move}

theorem good (h : Alone s m) : s.MoveGood m := h.inv.move_good m h.moving

theorem axis_lt (h : Alone s m) : m.axis < s.axes.length := h.good.axis_lt.trans_eq h.inv.axes_length.symm

theorem cont_eq_false (h : Alone s m) : (s.ax m.axis).cont = false := (still_of_contBusy h.good.not_busy).1

/-- A half of a step takes time: a width is at least 25 microseconds (40_axis_config R124). -/
theorem width_pos (h : Alone s m) : (0 : Rat) < (m.width : Rat) := by
  have hfloor := (h.inv.axis_good m.axis h.good.axis_lt).pw_floor
  rw [h.good.width_eq]
  exact_mod_cast (by omega : 0 < (s.ax m.axis).pw)

theorem agentTime_engine (h : Alone s m) : s.agentTime .move = some m.phaseEnd :=
  agentTime_move.mpr ⟨m, h.moving, rfl⟩

/-- Nothing but the move is scheduled. -/
theorem agentTime_eq_none (h : Alone s m) {g : Agent} (hg : g ∈ s.agents) (hne : g ≠ .move) :
    s.agentTime g = none := by
  cases g with
  | host => simp [State.agentTime, State.hostTime, h.quiet.no_commands]
  | rst => simp [State.agentTime, h.quiet.no_resets]
  | cmd => exact agentTime_cmd_of_moving h.moving
  | move => exact absurd rfl hne
  | seq => simp [State.agentTime, h.no_sequence]
  | swg a =>
    have hswing := (still_of_contBusy (h.quiet.no_motion a (swg_mem_agents.mp hg))).2
    simp [State.agentTime, hswing]
  | pwm a =>
    have hcont := (still_of_contBusy (h.quiet.no_motion a (pwm_mem_agents.mp hg))).1
    simp [State.agentTime, hcont]

/-- The engine stands once among the agents, between others that have nothing scheduled. -/
theorem agents_eq (h : Alone s m) : ∃ before after, s.agents = before ++ .move :: after
    ∧ (∀ g ∈ before, s.agentTime g = none) ∧ ∀ g ∈ after, s.agentTime g = none := by
  refine ⟨[.host, .rst, .cmd],
    .seq :: ((List.range s.inst.nAxes).map Agent.swg ++ (List.range s.inst.nAxes).map Agent.pwm), rfl,
    fun g hg => h.agentTime_eq_none ?_ ?_, fun g hg => h.agentTime_eq_none ?_ ?_⟩
  · simp only [State.agents, List.cons_append, List.nil_append, List.mem_cons] at hg ⊢; tauto
  · rintro rfl; simp at hg
  · simp only [State.agents, List.cons_append, List.nil_append, List.mem_cons] at hg ⊢; tauto
  · rintro rfl; simp at hg

theorem due_before (h : Alone s m) (hnow : s.now < m.phaseEnd) : s.due = [] := by
  refine List.eq_nil_iff_forall_not_mem.mpr fun g hg => ?_
  obtain ⟨hmem, time, htime, hle⟩ := mem_due hg
  by_cases hmove : g = .move
  · rw [hmove, h.agentTime_engine] at htime
    exact absurd hle (not_le.mpr (Option.some.inj htime ▸ hnow))
  · rw [h.agentTime_eq_none hmem hmove] at htime
    cases htime

theorem due_at (h : Alone s m) (hnow : s.now = m.phaseEnd) : s.due = [.move] := by
  obtain ⟨before, after, hagents, hbefore, hafter⟩ := h.agents_eq
  have hmove : s.isDue .move = true := by simp [State.isDue, h.agentTime_engine, hnow]
  have hnone {l : List Agent} (hl : ∀ g ∈ l, s.agentTime g = none) : l.filter s.isDue = [] :=
    List.filter_eq_nil_iff.mpr fun g hg => by simp [isDue_of_agentTime_eq_none (hl g hg)]
  rw [State.due, hagents, List.filter_append, hnone hbefore, List.filter_cons_of_pos hmove, hnone hafter]
  rfl

theorem passTime_to_phaseEnd (h : Alone s m) (hnow : s.now ≤ m.phaseEnd) : passTime s = { s with now := m.phaseEnd } := by
  obtain ⟨before, after, hagents, hbefore, hafter⟩ := h.agents_eq
  have htimes : s.agents.filterMap s.agentTime = [m.phaseEnd] := by
    rw [hagents, List.filterMap_append, List.filterMap_eq_nil_iff.mpr hbefore,
      List.filterMap_cons_some h.agentTime_engine, List.filterMap_eq_nil_iff.mpr hafter]
    rfl
  simp only [passTime, htimes, earliest, if_pos hnow]

/-- The passage of time leaves the engine alone. -/
theorem atTime (h : Alone s m) (time : Time) : Alone { s with now := time } m where
  inv := h.inv.of_sameAxes {} rfl h.inv.codes fun _ => rfl
  quiet := { h.quiet with }
  no_sequence := h.no_sequence
  moving := h.moving

/-- A half of a step is two steps of the machine: the time to its end passes, and the engine acts. -/
theorem run_half (h : Alone s m) (hbegins : m.phaseEnd = s.now + (m.width : Rat)) (k : Nat) :
    Sys2Proof.core.run (k + 2) s = Sys2Proof.core.run k (moveStep m { s with now := s.now + (m.width : Rat) }) := by
  have hnow : s.now < m.phaseEnd := hbegins ▸ lt_add_of_pos_right s.now h.width_pos
  have hpass : step s = .next { s with now := s.now + (m.width : Rat) } := by
    rw [step_of_none_due h.quiet.no_reset (h.due_before hnow), h.passTime_to_phaseEnd hnow.le, hbegins]
  have hend := h.atTime (s.now + (m.width : Rat))
  have hact := (step_of_due_eq_singleton hend.quiet.no_reset (hend.due_at hbegins.symm)).trans (perform_move hend.moving)
  rw [run_succ (M := Sys2Proof.core) hpass, run_succ (M := Sys2Proof.core) hact]

/-- After an edge that is not the last the engine is still alone. -/
theorem of_pulses {m' : Move} {l : Bool} {x : Axis} (h : Alone s m) (hpulse : Pulses s (moveStep m s) m' l x)
    (hrole : (s.ax m'.axis).SameRole x) : Alone (moveStep m s) m' where
  inv := moveStep_inv h.inv h.moving
  no_sequence := hpulse.sequencer.run.trans h.no_sequence
  moving := hpulse.record
  quiet := {
    no_reset := hpulse.world.resetIn.trans h.quiet.no_reset
    no_command := hpulse.world.cmdValid.trans h.quiet.no_command
    no_commands := hpulse.world.cmdStream.trans h.quiet.no_commands
    no_resets := hpulse.world.resetStream.trans h.quiet.no_resets
    no_motion := fun a ha => by
      have hsame : (s.ax a).SameRole ((moveStep m s).ax a) := by
        by_cases heq : a = m'.axis
        · rw [heq, hpulse.axis.here]; exact hrole
        · rw [hpulse.axis.others a heq]; exact ⟨rfl, rfl, rfl⟩
      rw [contBusy_of_sameRole hsame]
      exact h.quiet.no_motion a (hpulse.inst ▸ ha) }

end Alone

/-! ### What a move has done so far -/

/-- After `d` microseconds axis `a` is `x`, the pin events `events` were recorded, and nothing else of the block but
the command port changed. -/
structure MovedOn (s t : State) (a : Nat) (d : Rat) (x : Axis) (events : List PinEvent) : Prop where
  inst : t.inst = s.inst
  now : t.now = s.now + d
  axis : OnlyAxis s t a x
  trace : t.trace = s.trace ++ events
  sequencer : SameSequencer s t
  memory : SameMemory s t
  sticky : t.faultSticky = s.faultSticky
  draws : t.draws = s.draws

section
variable {s t u : State} {m : Move} {a : Nat} {d d' : Rat} {x y : Axis} {events events' : List PinEvent}

theorem SameSequencer.trans (h : SameSequencer s t) (h' : SameSequencer t u) : SameSequencer s u :=
  ⟨h'.run.trans h.run, h'.idx.trans h.idx, h'.period.trans h.period, h'.mask.trans h.mask, h'.fin.trans h.fin,
    h'.next.trans h.next⟩

theorem OnlyAxis.trans (h : OnlyAxis s t a x) (h' : OnlyAxis t u a y) : OnlyAxis s u a y :=
  ⟨h'.here, fun b hb => (h'.others b hb).trans (h.others b hb), h'.length.trans h.length⟩

theorem MovedOn.trans (h : MovedOn s t a d x events) (h' : MovedOn t u a d' y events') :
    MovedOn s u a (d + d') y (events ++ events') where
  inst := h'.inst.trans h.inst
  now := by rw [h'.now, h.now, add_assoc]
  axis := h.axis.trans h'.axis
  trace := by rw [h'.trace, h.trace, List.append_assoc]
  sequencer := h.sequencer.trans h'.sequencer
  memory k := (h'.memory k).trans (h.memory k)
  sticky := h'.sticky.trans h.sticky
  draws := h'.draws.trans h.draws

theorem Pulses.movedOn {l : Bool} (h : Pulses { s with now := s.now + d } t m l x) :
    MovedOn s t m.axis d x [⟨s.now + d, .step m.axis, l⟩] :=
  ⟨h.inst, h.world.now, ⟨h.axis.here, h.axis.others, h.axis.length⟩, h.trace, { h.sequencer with },
    fun k => by rw [h.mem], h.sticky, h.draws⟩

theorem AxisCommandDid.movedOn (h : AxisCommandDid { s with now := s.now + d } t a x [] 0) :
    MovedOn s t a d x [] :=
  ⟨h.world.inst, h.world.now, ⟨h.axis.here, h.axis.others, h.axis.length⟩, h.trace, { h.sequencer with },
    h.memory, h.sticky, h.draws⟩

end

/-! ### One step of the move -/

section
variable {s u : State} {m : Move}

theorem steppedAxis_of_pulse {a : Nat} {l : Bool} (hinst : u.inst = s.inst) (hax : u.ax a = { s.ax a with stepPin := l }) :
    u.steppedAxis a = { s.steppedAxis a with stepPin := l } := by
  simp only [State.steppedAxis, State.ratio, hinst, hax]

/-- The high half: the pulse falls at its end (R151). -/
theorem Alone.run_high (h : Alone s m) (hbegins : m.phaseEnd = s.now + (m.width : Rat)) (hhigh : m.phase = .high) :
    ∃ u : State, (∀ k, Sys2Proof.core.run (k + 2) s = Sys2Proof.core.run k u) ∧ Alone u m.lowered
      ∧ MovedOn s u m.axis (m.width : Rat) { s.ax m.axis with stepPin := false }
          [⟨s.now + (m.width : Rat), .step m.axis, false⟩] := by
  have hend := h.atTime (s.now + (m.width : Rat))
  have hpulse := moveStep_of_high hhigh ▸ endHigh_pulses hend.axis_lt hend.cont_eq_false
  exact ⟨_, h.run_half hbegins, hend.of_pulses hpulse ⟨rfl, rfl, rfl⟩, hpulse.movedOn⟩

/-- A low half that is not the last: the reference moves and the next pulse rises (R151, R152). -/
theorem Alone.run_low (h : Alone s m) (hbegins : m.phaseEnd = s.now + (m.width : Rat)) (hlow : m.phase = .low)
    (hmore : 2 ≤ m.remaining) :
    ∃ u : State, (∀ k, Sys2Proof.core.run (k + 2) s = Sys2Proof.core.run k u) ∧ Alone u m.raised
      ∧ MovedOn s u m.axis (m.width : Rat) { s.steppedAxis m.axis with stepPin := true }
          [⟨s.now + (m.width : Rat), .step m.axis, true⟩] := by
  have hend := h.atTime (s.now + (m.width : Rat))
  have hpulse := moveStep_of_low hlow ▸ endLow_pulses hend.axis_lt hend.cont_eq_false hmore
  exact ⟨_, h.run_half hbegins, hend.of_pulses hpulse ⟨rfl, rfl, rfl⟩, hpulse.movedOn⟩

/-- The last low half: the reference moves and the response comes (R152, R155). -/
theorem Alone.run_last (h : Alone s m) (hbegins : m.phaseEnd = s.now + (m.width : Rat)) (hlow : m.phase = .low)
    (hlast : m.remaining ≤ 1) :
    ∃ u : State, (∀ k, Sys2Proof.core.run (k + 2) s = Sys2Proof.core.run k u) ∧ Answers u 0 0
      ∧ MovedOn s u m.axis (m.width : Rat) (s.steppedAxis m.axis) [] := by
  have hend := h.atTime (s.now + (m.width : Rat))
  have hdid := moveStep_of_low hlow ▸ endLow_did hend.axis_lt hlast
  exact ⟨_, h.run_half hbegins, hdid.answer, hdid.movedOn⟩

/-- The next half begins where the one before it ended. -/
theorem MovedOn.begins {a : Nat} {x : Axis} {events : List PinEvent}
    (h : MovedOn s u a (m.width : Rat) x events) (hbegins : m.phaseEnd = s.now + (m.width : Rat)) :
    m.phaseEnd + (m.width : Rat) = u.now + (m.width : Rat) := by
  rw [h.now, hbegins]

/-- The axis after `n` steps of a move. -/
def State.movedAxis (s : State) (a n : Nat) : Axis :=
  { s.ax a with stepPin := false, ref := (refAfterStep (s.ratio a) (s.ax a).dir)^[n] (s.ax a).ref }

theorem movedAxis_succ {a n : Nat} {l : Bool} (hinst : u.inst = s.inst)
    (hax : u.ax a = { s.steppedAxis a with stepPin := l }) : u.movedAxis a n = s.movedAxis a (n + 1) := by
  simp only [State.movedAxis, State.ratio, hinst, hax]
  rfl

/-- The pin events of a move of `n` steps from time `t0` on, but for its first pulse's rise: the output falls after odd
numbers of halves and rises after even ones. -/
def moveEvents (t0 : Time) (a n : Nat) (w : Rat) : List PinEvent :=
  (List.range (2 * n - 1)).map fun j : Nat => ⟨t0 + ((j : Rat) + 1) * w, .step a, decide (j % 2 = 1)⟩

theorem moveEvents_one (t0 : Time) (a : Nat) (w : Rat) : moveEvents t0 a 1 w = [⟨t0 + w, .step a, false⟩] := by
  simp [moveEvents]

theorem moveEvents_succ (t0 : Time) (a n : Nat) (w : Rat) :
    moveEvents t0 a (n + 2) w
      = [⟨t0 + w, .step a, false⟩] ++ [⟨t0 + w + w, .step a, true⟩] ++ moveEvents (t0 + (w + w)) a (n + 1) w := by
  have hcount : 2 * (n + 2) - 1 = 2 + (2 * (n + 1) - 1) := by omega
  have hsecond : t0 + (1 + 1) * w = t0 + w + w := by ring
  have hlater (j : Rat) : t0 + (2 + j + 1) * w = t0 + (w + w) + (j + 1) * w := by ring
  rw [moveEvents, hcount, List.range_add, List.map_append, List.map_map]
  congr 1
  · simp [List.range_succ, hsecond]
  · exact List.map_congr_left fun j _ => by simp [Nat.add_mod_left, hlater]

/-- A step of the move that is not the last: both its halves. -/
theorem Alone.run_step (h : Alone s m) (hbegins : m.phaseEnd = s.now + (m.width : Rat)) (hhigh : m.phase = .high)
    (hmore : 2 ≤ m.remaining) :
    ∃ v : State, (∀ k, Sys2Proof.core.run (k + 4) s = Sys2Proof.core.run k v) ∧ Alone v m.lowered.raised
      ∧ m.lowered.raised.phaseEnd = v.now + (m.width : Rat)
      ∧ MovedOn s v m.axis ((m.width : Rat) + (m.width : Rat)) { s.steppedAxis m.axis with stepPin := true }
          ([⟨s.now + (m.width : Rat), .step m.axis, false⟩]
            ++ [⟨s.now + (m.width : Rat) + (m.width : Rat), .step m.axis, true⟩]) := by
  obtain ⟨u, hrun, halone, hmoved⟩ := h.run_high hbegins hhigh
  have hbegins' : m.lowered.phaseEnd = u.now + (m.width : Rat) := hmoved.begins hbegins
  obtain ⟨v, hrun', halone', hmoved'⟩ := halone.run_low hbegins' rfl hmore
  have haxis : { u.steppedAxis m.axis with stepPin := true } = { s.steppedAxis m.axis with stepPin := true } := by
    rw [steppedAxis_of_pulse hmoved.inst hmoved.axis.here]
  refine ⟨v, fun k => (hrun (k + 2)).trans (hrun' k), halone', hmoved'.begins hbegins', ?_⟩
  have htime : s.now + (m.width : Rat) + (m.width : Rat) = u.now + (m.width : Rat) := by rw [hmoved.now]
  rw [← haxis, htime]
  exact hmoved.trans hmoved'

/-- The last step of the move: both its halves. -/
theorem Alone.run_last_step (h : Alone s m) (hbegins : m.phaseEnd = s.now + (m.width : Rat)) (hhigh : m.phase = .high)
    (hlast : m.remaining ≤ 1) :
    ∃ v : State, (∀ k, Sys2Proof.core.run (k + 4) s = Sys2Proof.core.run k v) ∧ Answers v 0 0
      ∧ MovedOn s v m.axis ((m.width : Rat) + (m.width : Rat)) (s.movedAxis m.axis 1)
          [⟨s.now + (m.width : Rat), .step m.axis, false⟩] := by
  obtain ⟨u, hrun, halone, hmoved⟩ := h.run_high hbegins hhigh
  obtain ⟨v, hrun', hanswer, hmoved'⟩ := halone.run_last (hmoved.begins hbegins) rfl hlast
  have haxis : u.steppedAxis m.axis = s.movedAxis m.axis 1 := steppedAxis_of_pulse hmoved.inst hmoved.axis.here
  exact ⟨v, fun k => (hrun (k + 2)).trans (hrun' k), hanswer, haxis ▸ hmoved.trans hmoved'⟩

/-- A move with `n + 1` steps left runs to its end, step by step. -/
theorem Alone.run_to_end {n : Nat} (h : Alone s m) (hbegins : m.phaseEnd = s.now + (m.width : Rat))
    (hhigh : m.phase = .high) (hleft : m.remaining = n + 1) :
    ∃ t : State, Sys2Proof.core.run (4 * (n + 1)) s = .next t ∧ Answers t 0 0
      ∧ MovedOn s t m.axis ((n + 1 : Nat) * 2 * (m.width : Rat)) (s.movedAxis m.axis (n + 1))
          (moveEvents s.now m.axis (n + 1) (m.width : Rat)) := by
  induction n generalizing s m with
  | zero =>
    obtain ⟨t, hrun, hanswer, hmoved⟩ := h.run_last_step hbegins hhigh hleft.le
    have hduration : (0 + 1 : Nat) * 2 * (m.width : Rat) = (m.width : Rat) + (m.width : Rat) := by push_cast; ring
    refine ⟨t, hrun 0, hanswer, ?_⟩
    rw [moveEvents_one, hduration]
    exact hmoved
  | succ n ih =>
    obtain ⟨v, hrun, halone, hbegins', hmoved⟩ := h.run_step hbegins hhigh (by omega)
    have hleft' : m.lowered.raised.remaining = n + 1 := Nat.sub_eq_of_eq_add hleft
    obtain ⟨t, hrun', hanswer, hmoved'⟩ := ih halone hbegins' rfl hleft'
    have hduration : (n + 1 + 1 : Nat) * 2 * (m.width : Rat)
        = (m.width : Rat) + (m.width : Rat) + (n + 1 : Nat) * 2 * (m.width : Rat) := by push_cast; ring
    refine ⟨t, (hrun _).trans hrun', hanswer, ?_⟩
    rw [moveEvents_succ, ← movedAxis_succ hmoved.inst hmoved.axis.here, hduration, ← hmoved.now]
    exact hmoved.trans hmoved'

end

/-- Settles O16: the engine is alone, and the steps left are at least one. -/
theorem moveRunsToItsEnd : Obligations.MoveRunsToItsEnd := by
  intro s m hinv hquiet hstill hmoving hhigh hbegins
  obtain ⟨n, hn⟩ := Nat.exists_eq_add_of_le' (hinv.move_good m hmoving).remaining_pos
  have halone : Alone s m := ⟨hinv, hquiet, hstill, hmoving⟩
  obtain ⟨t, hrun, hanswer, hmoved⟩ := halone.run_to_end hbegins hhigh hn
  rw [← hn] at hrun hmoved
  exact ⟨t, hrun, hmoved.now, hanswer, hmoved.axis, hmoved.trace, hmoved.sequencer, hmoved.memory, hmoved.sticky,
    hmoved.draws⟩

end Sys2Proof.Machine
end

section
/-! Continuous moving and swing (42_continuous_swing): the four commands that start and stop a generator, a toggle of
the swing timer, the square wave of a generator, and the tracked state, which neither writes (R177). -/

namespace Sys2Proof.Machine

/-! ### Starting and stopping a generator (R170 to R173, R175) -/

section
variable {s t : State} {axis : Byte} {a : Nat}

/-- A change of an axis after another change of it is one change. -/
theorem ax_modAx_of_ax_modAx {f g : Axis → Axis} (hlength : t.axes.length = s.axes.length)
    (hax : ∀ b, t.ax b = (modAx a f s).ax b) (b : Nat) :
    (modAx a g t).ax b = (modAx a (fun x => g (f x)) s).ax b := by
  rw [← modAx_modAx a g f s]
  simp only [ax_modAx a g, hax, hlength, modAx_axes_length]

/-- The two checks of a command that drives the pins of an axis (60_exceptions R262). -/
theorem command_of_unowned_axis {effect : State} (haxis : axis.toNat < s.inst.nAxes)
    (hfree : s.seqOwns axis.toNat = false) :
    command s [axisCheck s axis, seqOwnsCheck s axis] effect = .next effect :=
  command_passes (by simp [axisCheck_passes haxis, seqOwnsCheck, hfree])

theorem exec_swingStart {period : Int} (haxis : axis.toNat < s.inst.nAxes)
    (hfree : s.seqOwns axis.toNat = false) (hperiod : 0 < period) :
    exec (.swingStart axis period) s
      = .next (respond 0 (startSwing axis.toNat period.toNat (startGenerator axis.toNat s))) :=
  command_passes (by simp [axisCheck_passes haxis, seqOwnsCheck, hfree, hperiod])

/-- Axis `a` with its generator started at the next draw's level and first edge. -/
def State.startedAxis (s : State) (a : Nat) : Axis :=
  { s.ax a with
    contPw := (s.ax a).pw
    cont := true
    stepPin := Config.freeLevel s.draws
    pwm := some ⟨s.now, some (firstWait (Config.freePhase s.draws) (s.ax a).pw)⟩ }

theorem startGenerator_did (ha : a < s.axes.length) :
    AxisCommandDid s (respond 0 (startGenerator a s)) a (s.startedAxis a)
      [⟨s.now, .step a, Config.freeLevel s.draws⟩] 1 :=
  respond_axisCommandDid ha {} (ax_startGenerator a s)

theorem startSwing_startGenerator_did (ha : a < s.axes.length) (ms : Nat) :
    AxisCommandDid s (respond 0 (startSwing a ms (startGenerator a s))) a
      { s.startedAxis a with swing := true, swingMs := ms, swingNext := some (s.now + 1000 * (ms : Rat)) }
      [⟨s.now, .step a, Config.freeLevel s.draws⟩] 1 :=
  respond_axisCommandDid ha {} (ax_modAx_of_ax_modAx (startGenerator_axes_length a s) (ax_startGenerator a s))

theorem stopGenerator_did (ha : a < s.axes.length) :
    AxisCommandDid s (respond 0 (stopGenerator a s)) a
      { s.ax a with
        cont := false, pwm := none, stepPin := false, swing := (s.ax a).swing && !s.inst.stopContCancelsSwing }
      [⟨s.now, .step a, false⟩] 0 :=
  respond_axisCommandDid ha {} (ax_stopGenerator a s)

theorem stopGenerator_cancelSwing_did (ha : a < s.axes.length) :
    AxisCommandDid s (respond 0 (stopGenerator a (cancelSwing a s))) a
      { s.ax a with cont := false, pwm := none, stepPin := false, swing := false } [⟨s.now, .step a, false⟩] 0 :=
  respond_axisCommandDid ha {} fun b => (ax_stopGenerator a (cancelSwing a s) b).trans
    (ax_modAx_of_ax_modAx (cancelSwing_axes_length a s) (ax_cancelSwing a s) b)

end

/-- Settles O17: the drawn first edge is neither before the start nor later than one half-period. -/
theorem generatorStarts : Obligations.GeneratorStarts := by
  intro s axis hshaped haxis hfree
  have ha : axis.toNat < s.axes.length := haxis.trans_eq hshaped.symm
  refine ⟨⟨_, _, _, command_of_unowned_axis haxis hfree, firstWait_nonneg _ _, firstWait_le _ _,
    startGenerator_did ha⟩, fun period hperiod => ?_⟩
  have hcast : ((period.toNat : Nat) : Rat) = (period : Rat) := by
    exact_mod_cast Int.toNat_of_nonneg hperiod.le
  exact ⟨_, _, _, exec_swingStart haxis hfree hperiod, firstWait_nonneg _ _, firstWait_le _ _,
    hcast ▸ startSwing_startGenerator_did ha period.toNat⟩

/-- Settles O18: `SWING_STOP` cancels the timer before it stops the generator. -/
theorem generatorStops : Obligations.GeneratorStops := by
  intro s axis hshaped haxis hfree
  have ha : axis.toNat < s.axes.length := haxis.trans_eq hshaped.symm
  have hswing : (if s.inst.stopContCancelsSwing = true then false else (s.ax axis.toNat).swing)
      = ((s.ax axis.toNat).swing && !s.inst.stopContCancelsSwing) := by
    cases s.inst.stopContCancelsSwing <;> simp
  refine ⟨⟨_, command_of_unowned_axis haxis hfree, ?_⟩,
    ⟨_, command_of_unowned_axis haxis hfree, stopGenerator_cancelSwing_did ha⟩⟩
  rw [hswing]
  exact stopGenerator_did ha

/-! ### The step of a swing timer or of a generator (R174, R176) -/

/-- A timer of axis `a` acted: the axis is now `x`, the pin event `event` was recorded, and nothing else changed, the
command port included. -/
structure TimerDid (s t : State) (a : Nat) (x : Axis) (event : PinEvent) : Prop extends SameBeside s t [event] 0 where
  axis : OnlyAxis s t a x
  cmdState : t.cmdState = s.cmdState := by simp
  rspStatus : t.rspStatus = s.rspStatus := by simp
  rspData : t.rspData = s.rspData := by simp
  rspValid : t.rspValid = s.rspValid := by simp

section
variable {s t : State} {a : Nat}

theorem onlyAxis_of_modAx {f : Axis → Axis} (ha : a < s.axes.length) (hlength : t.axes.length = s.axes.length)
    (hax : ∀ b, t.ax b = (modAx a f s).ax b) : OnlyAxis s t a (f (s.ax a)) :=
  ⟨(hax a).trans (ax_modAx_self ha f), fun b hb => (hax b).trans (ax_modAx_ne hb f s), hlength⟩

theorem perform_swg {time : Time} (h : (s.ax a).swingNext = some time) :
    perform (.swg a) s = .next (swingToggle a time s) := by
  simp only [perform, h]

theorem perform_pwm {since : Time} {wait : Rat} (h : (s.ax a).pwm = some ⟨since, some wait⟩)
    (hnow : s.now = since + wait) : perform (.pwm a) s = .next (pwmEdge a s.now s) := by
  simp only [perform, h, hnow]

theorem dirFlip_eq_ite (d : Dir) : d.flip = if d = .fwd then .rev else .fwd := by
  cases d <;> rfl

theorem lvlDir_flip_eq_ite (p : Config.Params) (d : Dir) :
    lvlDir p d.flip = if d = .fwd then !p.dirLevelFwd else p.dirLevelFwd := by
  cases d <;> rfl

theorem swingToggle_did (ha : a < s.axes.length) (time : Time) :
    TimerDid s (swingToggle a time s) a
      { s.ax a with
        dir := (s.ax a).dir.flip
        dirPin := lvlDir s.inst (s.ax a).dir.flip
        swingNext := some (time + 1000 * ((s.ax a).swingMs : Rat)) }
      ⟨s.now, .dir a, lvlDir s.inst (s.ax a).dir.flip⟩ where
  axis := onlyAxis_of_modAx ha (swingToggle_axes_length a time s) (ax_swingToggle a time s)

theorem pwmEdge_did (ha : a < s.axes.length) {level : Bool} (hlevel : (!(s.ax a).stepPin) = level)
    {half : Option Rat} (hhalf : halfPeriod (s.ax a).contPw = half) :
    TimerDid s (pwmEdge a s.now s) a { s.ax a with stepPin := level, pwm := some ⟨s.now, half⟩ }
      ⟨s.now, .step a, level⟩ := by
  subst hlevel hhalf
  exact { axis := onlyAxis_of_modAx ha (pwmEdge_axes_length a s.now s) (ax_pwmEdge a s.now s) }

theorem halfPeriod_isSome (width : Nat) : (halfPeriod width).isSome = decide (0 < actualFreq width) := by
  unfold halfPeriod
  split <;> simp [*]

end

/-- Settles O19: the toggle sets the flipped direction, its level, and the next time. -/
theorem swingToggles : Obligations.SwingToggles := by
  intro s a t0 hshaped ha hnext
  rw [← dirFlip_eq_ite, ← lvlDir_flip_eq_ite]
  have h := swingToggle_did (ha.trans_eq hshaped.symm) t0
  exact ⟨_, perform_swg hnext, h.axis, h.trace, h.sequencer, fun k => by rw [h.mem], h.world, h.cmdState,
    h.rspStatus, h.rspData, h.rspValid, h.draws, h.sticky⟩

/-- Settles O20: the edge that is due leaves the width as it is, so it schedules the one after it a half-period later,
which inverts the level again. -/
theorem generatorIsASquareWave : Obligations.GeneratorIsASquareWave := by
  refine ⟨fun s a since wait hshaped ha hpwm hnow => ?_, fun width => ⟨fun h hh => ?_, halfPeriod_isSome width,
    halfPeriod_of_exact⟩⟩
  · have hlength : a < s.axes.length := ha.trans_eq hshaped.symm
    have first := pwmEdge_did hlength rfl rfl
    refine ⟨_, ⟨perform_pwm hpwm hnow, first.axis, first.trace, first.sequencer, fun k => by rw [first.mem],
      first.world, first.cmdState, first.rspStatus, first.rspData, first.rspValid, first.sticky, first.draws⟩,
      fun h hh => ?_⟩
    have hax := first.axis.here
    have hlevel : (!((pwmEdge a s.now s).ax a).stepPin) = (s.ax a).stepPin := by rw [hax, Bool.not_not]
    have hhalf : halfPeriod ((pwmEdge a s.now s).ax a).contPw = halfPeriod (s.ax a).contPw := by rw [hax]
    have hwait : ((pwmEdge a s.now s).ax a).pwm = some ⟨s.now, some h⟩ := by rw [hax, ← hh]
    have second := pwmEdge_did (s := { pwmEdge a s.now s with now := s.now + h })
      (hlength.trans_eq first.length.symm) hlevel hhalf
    exact ⟨_, perform_pwm hwait rfl, second.axis, second.trace, second.sequencer, fun k => by rw [second.mem],
      second.world, second.cmdState, second.rspStatus, second.rspData, second.rspValid, second.sticky, second.draws⟩
  · obtain ⟨hpos, -, hperiod⟩ := halfPeriod_eq_some hh
    exact ⟨hpos, hperiod⟩

/-! ### The tracked state (R177) -/

/-- The tracked fields of an axis are the same in both, the direction among them when `straight` holds. -/
structure Axis.SameTracked (straight : Prop) (x y : Axis) : Prop extends Axis.SameSetup x y where
  ref : y.ref = x.ref := by rfl
  en : y.en = x.en := by rfl
  enPin : y.enPin = x.enPin := by rfl
  dir : straight → y.dir = x.dir := by exact fun _ => rfl

/-- The tracked state is the same in both: every axis, the recorded fault and the sequence memory. -/
structure SameTracked (straight : Prop) (s t : State) : Prop where
  axes : ∀ a, (s.ax a).SameTracked straight (t.ax a)
  sticky : t.faultSticky = s.faultSticky := by simp
  mem : t.mem = s.mem := by simp

section
variable {s t u : State} {straight : Prop} {a : Nat}

theorem Axis.SameTracked.refl (x : Axis) : x.SameTracked straight x := { Axis.SameSetup.refl x with }

theorem SameTracked.refl (s : State) : SameTracked straight s s := { axes := fun _ => .refl _ }

theorem Axis.SameTracked.trans {x y z : Axis} (h : x.SameTracked straight y) (h' : y.SameTracked straight z) :
    x.SameTracked straight z where
  cont := h'.cont.trans h.cont
  swing := h'.swing.trans h.swing
  seqLen := h'.seqLen.trans h.seqLen
  pw := h'.pw.trans h.pw
  ref := h'.ref.trans h.ref
  en := h'.en.trans h.en
  enPin := h'.enPin.trans h.enPin
  dir hs := (h'.dir hs).trans (h.dir hs)

theorem SameTracked.trans (h : SameTracked straight s t) (h' : SameTracked straight t u) :
    SameTracked straight s u :=
  ⟨fun a => (h.axes a).trans (h'.axes a), h'.sticky.trans h.sticky, h'.mem.trans h.mem⟩

/-- A change of one axis. -/
theorem sameTracked_of_modAx {f : Axis → Axis} (hax : ∀ b, t.ax b = (modAx a f s).ax b)
    (hf : (s.ax a).SameTracked straight (f (s.ax a))) (b : Nat) : (s.ax b).SameTracked straight (t.ax b) := by
  rw [hax, ax_modAx]
  split
  · next hba => obtain ⟨rfl, -⟩ := hba; exact hf
  · exact .refl _

theorem writeStep_sameTracked (a : Nat) (l : Bool) (s : State) : SameTracked straight s (writeStep a l s) := by
  unfold writeStep
  split
  · exact .refl s
  · exact { axes := sameTracked_of_modAx (ax_driveStep a l s) { Axis.SameSetup.refl (s.ax a) with } }

theorem writeDir_sameTracked (a : Nat) (l : Bool) (s : State) : SameTracked straight s (writeDir a l s) where
  axes := sameTracked_of_modAx (ax_writeDir a l s) { Axis.SameSetup.refl (s.ax a) with }

theorem playEntry_sameTracked (a : Nat) (e : Entry) (s : State) : SameTracked straight s (playEntry a e s) :=
  (writeStep_sameTracked a e.pulse s).trans (writeDir_sameTracked a _ _)

theorem tick_sameTracked {lanes : List Nat} (hrun : playLanes lanes s = .next t) (time : Time) :
    SameTracked straight s (advanceIndex time (reorderTick s t)) := by
  have hplayed : SameTracked straight s t :=
    playLanes_keeps (P := SameTracked straight s) (fun _ _ hu => { hu with })
      (fun u a e hu => hu.trans (playEntry_sameTracked a e u)) (.refl s) hrun
  unfold advanceIndex
  split <;> exact { hplayed with }

theorem presentCommand_sameTracked (s : State) : SameTracked straight s (presentCommand s) := by
  unfold presentCommand
  split <;> exact { axes := fun _ => .refl _ }

theorem swingToggle_sameTracked (hturns : ¬straight) (a : Nat) (time : Time) (s : State) :
    SameTracked straight s (swingToggle a time s) where
  axes := sameTracked_of_modAx (ax_swingToggle a time s)
    { Axis.SameSetup.refl (s.ax a) with dir := fun hs => absurd hs hturns }

theorem pwmEdge_sameTracked (a : Nat) (time : Time) (s : State) : SameTracked straight s (pwmEdge a time s) where
  axes := sameTracked_of_modAx (ax_pwmEdge a time s) { Axis.SameSetup.refl (s.ax a) with }

/-- The agents that track nothing: the host, the sequencer, the generators, and but for the direction the swing
timers. -/
theorem Acts.sameTracked {g : Agent} (hact : Acts s g t) (hcmd : g ≠ .cmd) (hmove : g ≠ .move) (hrst : g ≠ .rst) :
    SameTracked (∀ b, g ≠ .swg b) s t := by
  cases hact with
  | nothing => exact .refl s
  | present => exact presentCommand_sameTracked s
  | reset => exact absurd rfl hrst
  | command | illegal => exact absurd rfl hcmd
  | move => exact absurd rfl hmove
  | tick _ _ hlanes => exact tick_sameTracked hlanes _
  | @toggle a => exact swingToggle_sameTracked (fun hs => hs a rfl) a _ s
  | edge => exact pwmEdge_sameTracked _ _ s

end

/-- Settles O50: an agent that is neither the command executor, nor the move engine, nor `RESET` tracks nothing. -/
theorem onlyCommandsAndMovesTrack : Obligations.OnlyCommandsAndMovesTrack := by
  intro s t g hrun hcmd hmove hrst
  have same := (acts_of_perform hrun).sameTracked hcmd hmove hrst
  refine ⟨fun a => ?_, same.sticky, fun k => by rw [same.mem]⟩
  have h := same.axes a
  exact ⟨h.ref, h.pw, h.en, h.enPin, h.seqLen, h.cont, h.swing, h.dir⟩

end Sys2Proof.Machine
end

section
/-! The planner (43_planner): its equations sample by sample, how many entries it gives, how closely it follows the
function it samples, and what it gives for a function that it follows exactly. -/

namespace Sys2Proof.Machine

/-! ### The samples and the inputs (R191, R194) -/

section
variable {inst : Config.Params} {f : Rat → Rat} {start stop xDev yDev : Rat}

@[simp] theorem samplePoint_zero (start xDev : Rat) : samplePoint start xDev 0 = start := by
  simp [samplePoint]

theorem samplePoint_succ (start xDev : Rat) (k : Nat) :
    samplePoint start xDev (k + 1) = samplePoint start xDev k + xDev := by
  simp only [samplePoint, Nat.cast_add_one]
  ring

theorem sampleCount_cast (start stop xDev : Rat) :
    (sampleCount start stop xDev : Int) = max 0 ⌊(stop - start) / xDev⌋ :=
  Int.toNat_of_nonneg (le_max_left ..)

theorem funcToPulse_of_pos (hx : 0 < xDev) (hy : 0 < yDev) :
    funcToPulse inst f start stop xDev yDev =
      some (planSamples f start xDev yDev (sampleCount start stop xDev) 1 (f start) inst.plannerInitialDir) :=
  if_pos ⟨hx, hy⟩

theorem funcToPulse_eq_none_iff :
    funcToPulse inst f start stop xDev yDev = none ↔ xDev ≤ 0 ∨ yDev ≤ 0 := by
  simp only [funcToPulse, ite_eq_right_iff, reduceCtorEq, imp_false, not_and_or, not_lt]

/-- A plan is what the loop gives; its inputs were not refused. -/
theorem eq_planSamples_of_funcToPulse {p : Plan} (hp : funcToPulse inst f start stop xDev yDev = some p) :
    p = planSamples f start xDev yDev (sampleCount start stop xDev) 1 (f start) inst.plannerInitialDir := by
  unfold funcToPulse at hp
  split at hp
  · exact (Option.some.inj hp).symm
  · cases hp

theorem seqLoadFits_iff {entries : List Entry} :
    seqLoadFits inst entries = true ↔ entries.length ≤ inst.seqDepth :=
  decide_eq_true_iff

end

/-! ### The pair of one sample (R192, R193) -/

section
variable {fx yDev y : Rat} (d : Dir)

/-- What one sample can do: a step up, a step down, or no change. -/
theorem samplePair_cases (fx yDev y : Rat) :
    (yDev ≤ fx - y ∧ samplePair fx yDev y d = (pairFwd, y + yDev, .fwd))
      ∨ (yDev ≤ y - fx ∧ samplePair fx yDev y d = (pairRev, y - yDev, .rev))
      ∨ (fx - y < yDev ∧ y - fx < yDev ∧ samplePair fx yDev y d = (holdPair d, y, d)) := by
  unfold samplePair
  split
  next hup => exact .inl ⟨hup, rfl⟩
  next hup =>
    split
    next hdown => exact .inr (.inl ⟨hdown, rfl⟩)
    next hdown => exact .inr (.inr ⟨not_le.mp hup, not_le.mp hdown, rfl⟩)

theorem samplePair_self (hpos : 0 < yDev) : samplePair y yDev y d = (holdPair d, y, d) := by
  rw [samplePair, sub_self, if_neg hpos.not_ge, if_neg hpos.not_ge]

theorem samplePair_quantum_up : samplePair (y + yDev) yDev y d = (pairFwd, y + yDev, .fwd) :=
  if_pos (add_sub_cancel_left y yDev).ge

theorem samplePair_length (fx yDev y : Rat) : (samplePair fx yDev y d).1.length = 2 := by
  obtain ⟨-, h⟩ | ⟨-, h⟩ | ⟨-, -, h⟩ := samplePair_cases d fx yDev y <;> rw [h] <;> rfl

/-- One sample brings an error of less than two quanta below one. -/
theorem samplePair_within_quantum (herr : |fx - y| < 2 * yDev) :
    |fx - (samplePair fx yDev y d).2.1| < yDev := by
  rw [abs_lt] at herr ⊢
  obtain ⟨hup, h⟩ | ⟨hdown, h⟩ | ⟨hup, hdown, h⟩ := samplePair_cases d fx yDev y <;> rw [h]
  all_goals constructor <;> linarith

end

/-! ### The loop over the samples (R192) -/

section
variable (f : Rat → Rat) (start xDev yDev : Rat)

/-- The pair of sample `k + 1`, with `y` and the held direction after it. -/
def pairAt (k : Nat) (y : Rat) (d : Dir) : List Entry × Rat × Dir :=
  samplePair (f (samplePoint start xDev (k + 1))) yDev y d

/-- The loop after sample `k + 1`, with `n` samples to come. -/
def planAfter (n k : Nat) (y : Rat) (d : Dir) : Plan :=
  planSamples f start xDev yDev n (k + 2) (pairAt f start xDev yDev k y d).2.1
    (pairAt f start xDev yDev k y d).2.2

end

section
variable {f : Rat → Rat} {start xDev yDev : Rat}

theorem planSamples_succ_entries (n k : Nat) (y : Rat) (d : Dir) :
    (planSamples f start xDev yDev (n + 1) (k + 1) y d).entries =
      (pairAt f start xDev yDev k y d).1 ++ (planAfter f start xDev yDev n k y d).entries := rfl

theorem planSamples_succ_y (n k : Nat) (y : Rat) (d : Dir) :
    (planSamples f start xDev yDev (n + 1) (k + 1) y d).y = (planAfter f start xDev yDev n k y d).y := rfl

/-- No warning where the function changes by at most two quanta (R197). -/
theorem planSamples_succ_warnings {k : Nat}
    (hchange : |f (samplePoint start xDev (k + 1)) - f (samplePoint start xDev k)| ≤ 2 * yDev)
    (n : Nat) (y : Rat) (d : Dir) :
    (planSamples f start xDev yDev (n + 1) (k + 1) y d).warnings =
      (planAfter f start xDev yDev n k y d).warnings := by
  simp only [planSamples, Nat.add_sub_cancel, if_neg hchange.not_gt, List.nil_append]
  rfl

/-- One pair for each sample (R198). -/
theorem planSamples_length (n k : Nat) (y : Rat) (d : Dir) :
    (planSamples f start xDev yDev n (k + 1) y d).entries.length = 2 * n := by
  induction n generalizing k y d with
  | zero => rfl
  | succ n ih =>
    rw [planSamples_succ_entries, List.length_append, pairAt, samplePair_length, planAfter, ih]
    omega

/-- The tracking bound (R199) from any sample on: an error below one quantum stays below it as long as the function
changes by at most one quantum a sample. -/
theorem planSamples_within_quantum {n k : Nat} {y : Rat} (d : Dir)
    (hchange : ∀ j, k ≤ j → j < k + n →
      |f (samplePoint start xDev (j + 1)) - f (samplePoint start xDev j)| ≤ yDev)
    (herr : |f (samplePoint start xDev k) - y| < yDev) :
    |f (samplePoint start xDev (k + n)) - (planSamples f start xDev yDev n (k + 1) y d).y| < yDev := by
  induction n generalizing k y d with
  | zero => exact herr
  | succ n ih =>
    have hbefore : |f (samplePoint start xDev (k + 1)) - y| < 2 * yDev :=
      calc |f (samplePoint start xDev (k + 1)) - y|
        _ ≤ |f (samplePoint start xDev (k + 1)) - f (samplePoint start xDev k)|
              + |f (samplePoint start xDev k) - y| := abs_sub_le ..
        _ < 2 * yDev := by linarith [hchange k le_rfl (by omega)]
    rw [planSamples_succ_y, ← Nat.add_assoc, Nat.add_right_comm]
    exact ih _ (fun j hj hjn => hchange j (by omega) (by omega)) (samplePair_within_quantum d hbefore)

/-- A plan of `n` times one pair, without a warning. -/
def Plan.Repeats (p : Plan) (n : Nat) (pair : List Entry) : Prop :=
  p.warnings = [] ∧ p.entries = (List.replicate n pair).flatten

/-- A function that the planner follows exactly, with one and the same pair at every sample: that pair is the whole
plan, without a warning. `held` says which directions can be held on the way. -/
theorem planSamples_of_exact {pair : List Entry} {held : Dir → Prop}
    (hpair : ∀ k d, held d → ∃ d', held d' ∧
      pairAt f start xDev yDev k (f (samplePoint start xDev k)) d =
        (pair, f (samplePoint start xDev (k + 1)), d'))
    (hchange : ∀ k, |f (samplePoint start xDev (k + 1)) - f (samplePoint start xDev k)| ≤ 2 * yDev)
    (n k : Nat) {d : Dir} (hd : held d) :
    (planSamples f start xDev yDev n (k + 1) (f (samplePoint start xDev k)) d).Repeats n pair := by
  induction n generalizing k d with
  | zero => exact ⟨rfl, rfl⟩
  | succ n ih =>
    obtain ⟨d', hd', hk⟩ := hpair k d hd
    obtain ⟨hwarnings, hentries⟩ := ih (k + 1) hd'
    rw [Plan.Repeats, planSamples_succ_warnings (hchange k), planSamples_succ_entries, planAfter, hk]
    exact ⟨hwarnings, by rw [hentries, List.replicate_succ, List.flatten_cons]⟩

end

/-! ### Constants and ramps -/

section
variable (c start : Rat) {xDev yDev : Rat} (n : Nat) (d : Dir)

theorem planSamples_constant (hy : 0 < yDev) :
    (planSamples (fun _ => c) start xDev yDev n 1 c d).Repeats n (holdPair d) := by
  refine planSamples_of_exact (f := fun _ => c) (held := (· = d)) ?_ (fun _ => ?_) n 0 rfl
  · rintro k held rfl
    exact ⟨held, rfl, samplePair_self held hy⟩
  · rw [sub_self, abs_zero]
    linarith

/-- Along a ramp of slope `yDev / xDev` the function rises by one quantum a sample. -/
theorem ramp_samplePoint_succ (hx : 0 < xDev) (k : Nat) :
    c + samplePoint start xDev (k + 1) * (yDev / xDev) =
      c + samplePoint start xDev k * (yDev / xDev) + yDev := by
  rw [samplePoint_succ, add_mul, mul_div_cancel₀ _ hx.ne', add_assoc]

theorem planSamples_ramp (hx : 0 < xDev) (hy : 0 < yDev) :
    (planSamples (fun x => c + x * (yDev / xDev)) start xDev yDev n 1 (c + start * (yDev / xDev)) d).Repeats
      n pairFwd := by
  have hstart := samplePoint_zero start xDev
  conv in c + start * _ => rw [← hstart]
  refine planSamples_of_exact (f := fun x => c + x * (yDev / xDev)) (held := fun _ => True)
    (fun k d _ => ⟨.fwd, trivial, ?_⟩) (fun k => ?_) n 0 trivial
  · simp only [pairAt, ramp_samplePoint_succ c start hx, samplePair_quantum_up]
  · rw [ramp_samplePoint_succ c start hx, add_sub_cancel_left, abs_of_pos hy]
    linarith

end

/-! ### The statements -/

/-- Settles O53, by induction over the samples. -/
theorem planHasTwoEntriesPerSample : Obligations.PlanHasTwoEntriesPerSample := by
  intro inst f start stop xDev yDev
  refine ⟨fun p hp => ?_, funcToPulse_eq_none_iff⟩
  have hlength : (p.entries.length : Int) = 2 * max 0 ⌊(stop - start) / xDev⌋ := by
    rw [eq_planSamples_of_funcToPulse hp, planSamples_length _ 0, Nat.cast_mul, sampleCount_cast]
    rfl
  exact ⟨hlength, by rw [seqLoadFits_iff, ← hlength, Nat.cast_le]⟩

/-- Settles O54: the bound from sample 0 on, where the error is 0. -/
theorem plannerTracksWithinAQuantum : Obligations.PlannerTracksWithinAQuantum := by
  intro d f start xDev yDev n hy hchange
  have hstart : |f (samplePoint start xDev 0) - f start| < yDev := by
    rwa [samplePoint_zero, sub_self, abs_zero]
  have hbound := planSamples_within_quantum (n := n) d (fun j _ hj => ?_) hstart
  · rwa [Nat.zero_add] at hbound
  · have hj' := hchange (j + 1) (by omega) (by omega)
    rwa [Nat.cast_add_one, add_sub_cancel_right, ← Nat.cast_add_one] at hj'

/-- Settles O55: the planner follows both functions exactly. -/
theorem plannerOnConstantsAndRamps : Obligations.PlannerOnConstantsAndRamps := by
  intro inst c start stop xDev yDev hx hy
  exact ⟨⟨_, funcToPulse_of_pos hx hy, planSamples_constant c start _ _ hy⟩,
    ⟨_, funcToPulse_of_pos hx hy, planSamples_ramp c start _ _ hx hy⟩⟩

end Sys2Proof.Machine
end

section
/-! The commands that load the sequencer and start it (44_sequencer R210 to R217), and what keeps a written entry (R211). -/

namespace Sys2Proof.Machine

/-! ### Loading (R210, R212, R214) -/

section
variable {s : State}

theorem exec_seqSetPeriod {period : Int} (hpos : 0 < period) (hstill : s.seqRun = false) :
    exec (.seqSetPeriod 0 period) s = .next (respond 0 { s with seqPeriod := BitVec.ofInt 32 period }) :=
  command_passes (by simp [globalCheck, seqRunCheck, hpos, hstill])

/-- A period that the operand can hold is stored without loss. -/
theorem toNat_ofInt_period {period : Int} (hpos : 0 < period) (hle : period ≤ 2147483647) :
    ((BitVec.ofInt 32 period).toNat : Int) = period := by
  rw [BitVec.toNat_ofInt]
  omega

end

/-- Settles O21: every check passes, and the store is read back at its own place alone. -/
theorem seqWriteStoresOneEntry : Obligations.SeqWriteStoresOneEntry := by
  intro s axis index entry haxis hindex hstill
  exact ⟨_, exec_seqWrite haxis hindex hstill entry, ⟨rfl, rfl, rfl, rfl⟩, seqRead_seqStore_self _ _ _ s,
    fun k hk => memRead_memWrite_ne _ hk _, ⟨rfl, fun _ => rfl⟩, ⟨rfl, rfl, rfl, rfl, rfl, rfl⟩,
    ⟨rfl, rfl, rfl, rfl, rfl, rfl, rfl, rfl, rfl⟩, ⟨rfl, rfl, rfl⟩⟩

/-- Settles O22: the length is a field of its axis, the period one of the block. -/
theorem seqLengthAndPeriodAreSet : Obligations.SeqLengthAndPeriodAreSet := by
  refine ⟨fun s axis len hshaped haxis hlen hstill => ?_, fun s period hpos hle hstill => ?_⟩
  · have ha : axis.toNat < s.axes.length := haxis.trans_eq hshaped.symm
    exact ⟨_, exec_seqSetLen haxis hlen hstill, respond_axisCommandDid ha {} fun _ => rfl⟩
  · exact ⟨_, exec_seqSetPeriod hpos hstill, ⟨rfl, rfl, rfl, rfl⟩, toNat_ofInt_period hpos hle, rfl, rfl, rfl, rfl,
      rfl, ⟨rfl, fun _ => rfl⟩, fun _ => rfl, ⟨rfl, rfl, rfl, rfl, rfl, rfl, rfl, rfl, rfl⟩, ⟨rfl, rfl, rfl⟩⟩

/-! ### The participating axes of a mask (R216) -/

section
variable {n : Nat} {mask : Word} {s : State}

/-- When every bit of a mask names an axis, its bits are its lanes. -/
theorem mem_lanesOf_of_fits (hfits : ∀ a, n ≤ a → mask.getLsbD a = false) {a : Nat} :
    a ∈ lanesOf n mask ↔ mask.getLsbD a = true := by
  refine mem_lanesOf.trans (and_iff_right_of_imp fun hbit => ?_)
  by_contra hout
  exact absurd (hfits a (not_lt.mp hout)) (by simp [hbit])

theorem any_lanesOf_eq_false (hfits : ∀ a, n ≤ a → mask.getLsbD a = false) {p : Nat → Bool} :
    (lanesOf n mask).any p = false ↔ ∀ a, mask.getLsbD a = true → p a = false := by
  simp only [List.any_eq_false, mem_lanesOf_of_fits hfits, Bool.not_eq_true]

theorem any_lanesOf_eq_true (hfits : ∀ a, n ≤ a → mask.getLsbD a = false) {p : Nat → Bool} :
    (lanesOf n mask).any p = true ↔ ∃ a, mask.getLsbD a = true ∧ p a = true := by
  simp only [List.any_eq_true, mem_lanesOf_of_fits hfits]

theorem ne_zero_of_getLsbD {a : Nat} (hbit : mask.getLsbD a = true) : mask ≠ 0 := by
  rintro rfl
  simp at hbit

/-- `len` is the least of the participating lengths, in the terms of the statements. -/
def IsShortest (s : State) (mask : Word) (len : Nat) : Prop :=
  (∃ a, mask.getLsbD a = true ∧ (s.ax a).seqLen = len) ∧ ∀ a, mask.getLsbD a = true → len ≤ (s.ax a).seqLen

theorem IsShortest.mask_ne_zero {len : Nat} (h : IsShortest s mask len) : mask ≠ 0 := by
  obtain ⟨⟨a, hbit, -⟩, -⟩ := h
  exact ne_zero_of_getLsbD hbit

/-- The model's minimum is that length. -/
theorem IsShortest.shortest_eq (hfits : ∀ a, n ≤ a → mask.getLsbD a = false) {len : Nat}
    (h : IsShortest s mask len) : s.shortest (lanesOf n mask) = len := by
  obtain ⟨⟨a, hbit, hlen⟩, hle⟩ := h
  have ha : a ∈ lanesOf n mask := (mem_lanesOf_of_fits hfits).mpr hbit
  obtain ⟨b, hb, hshortest⟩ := shortest_mem s (List.ne_nil_of_mem ha)
  refine le_antisymm (hlen ▸ shortest_le s ha) ?_
  rw [hshortest]
  exact hle b ((mem_lanesOf_of_fits hfits).mp hb)

/-- The check of equal lengths passes when it is off or all lengths are `len`. -/
theorem lengthMismatch_eq_false (hfits : ∀ a, n ≤ a → mask.getLsbD a = false) {len : Nat}
    (hequal : s.inst.checkEqualLength = true → ∀ a, mask.getLsbD a = true → (s.ax a).seqLen = len) :
    (s.inst.checkEqualLength && (lanesOf n mask).any fun a => decide ((s.ax a).seqLen ≠ len)) = false := by
  rw [Bool.and_eq_false_imp]
  intro hcheck
  exact (any_lanesOf_eq_false hfits).mpr fun a ha => decide_eq_false (not_not.mpr (hequal hcheck a ha))

/-- No entry to be played is unwritten, in the terms of the statements. -/
theorem playsUnwritten_eq_false (hfits : ∀ a, n ≤ a → mask.getLsbD a = false) {len : Nat} :
    s.playsUnwritten (lanesOf n mask) len = false
      ↔ ∀ a, mask.getLsbD a = true → ∀ i, i < len → (s.seqRead a i).isSome = true := by
  rw [State.playsUnwritten, any_lanesOf_eq_false hfits]
  simp [Option.isSome_iff_ne_none]

theorem playsUnwritten_eq_true (hfits : ∀ a, n ≤ a → mask.getLsbD a = false) {len a i : Nat}
    (hbit : mask.getLsbD a = true) (hi : i < len) (hnone : s.seqRead a i = none) :
    s.playsUnwritten (lanesOf n mask) len = true := by
  rw [State.playsUnwritten, any_lanesOf_eq_true hfits]
  exact ⟨a, hbit, List.any_eq_true.mpr ⟨i, List.mem_range.mpr hi, by rw [hnone]; rfl⟩⟩

end

/-! ### The start (R216, R217) -/

/-- Settles O23: the statement's premises are the checks, read bit by bit. -/
theorem seqStartBegins : Obligations.SeqStartBegins := by
  intro s mask len hfits hstill hfree hperiod hpos hlt hmin hle hequal hwritten
  have hlen : s.shortest (lanesOf s.inst.nAxes mask) = len := IsShortest.shortest_eq hfits ⟨hmin, hle⟩
  have hmask : mask ≠ 0 := IsShortest.mask_ne_zero ⟨hmin, hle⟩
  have hpass : ∀ c ∈ seqStartChecks 0 mask s, c.1 = false := by
    simp only [seqStartChecks, hlen, List.forall_mem_cons]
    exact ⟨rfl, maskNamesNoAxis_eq_false.mpr hfits, hstill, (any_lanesOf_eq_false hfits).mpr hfree,
      decide_eq_false hperiod, decide_eq_false hmask, decide_eq_false hpos.ne',
      lengthMismatch_eq_false hfits hequal, (playsUnwritten_eq_false hfits).mpr hwritten, nofun⟩
  have hend : (BitVec.ofNat 16 (s.shortest (lanesOf s.inst.nAxes mask))).toNat = len := by
    rw [hlen, BitVec.toNat_ofNat, Nat.mod_eq_of_lt hlt]
  exact ⟨_, command_passes hpass, ⟨rfl, rfl, rfl, rfl⟩, rfl, hend, rfl, rfl, rfl, rfl, ⟨rfl, fun _ => rfl⟩,
    fun _ => rfl, ⟨rfl, rfl, rfl, rfl, rfl, rfl, rfl, rfl, rfl⟩, ⟨rfl, rfl, rfl⟩⟩

/-! ### The faults of the start, check by check (R216, 60_exceptions R263) -/

section
variable {s : State} {mask : Word} {len : Nat}

/-- The first `k` checks of `SEQ_START` pass, so the ones after them decide. -/
def SeqStartPasses (s : State) (mask : Word) (k : Nat) : Prop :=
  firstFault (seqStartChecks 0 mask s) = firstFault ((seqStartChecks 0 mask s).drop k)

/-- The next check fails, with its cause. -/
theorem SeqStartPasses.faulted {k : Nat} {failed : Bool} {c : Cause} {rest : List (Bool × Cause)}
    (h : SeqStartPasses s mask k) (hnext : (seqStartChecks 0 mask s).drop k = (failed, c) :: rest)
    (hfailed : failed = true) : ∃ t, exec (.seqStart 0 mask) s = .next t ∧ Faulted s t c :=
  command_faulted (h.trans (hnext ▸ firstFault_of_failed hfailed c rest))

/-- The next check passes too. -/
theorem SeqStartPasses.succ {k : Nat} {failed : Bool} {c : Cause}
    (h : SeqStartPasses s mask k)
    (hnext : (seqStartChecks 0 mask s).drop k = (failed, c) :: (seqStartChecks 0 mask s).drop (k + 1))
    (hpassed : failed = false) : SeqStartPasses s mask (k + 1) :=
  h.trans (hnext ▸ firstFault_of_passed hpassed c _)

theorem seqStartPasses_axis : SeqStartPasses s mask 1 := rfl

theorem seqStartPasses_mask (hfits : ∀ a, s.inst.nAxes ≤ a → mask.getLsbD a = false) : SeqStartPasses s mask 2 :=
  seqStartPasses_axis.succ rfl (maskNamesNoAxis_eq_false.mpr hfits)

theorem seqStartPasses_still (hfits : ∀ a, s.inst.nAxes ≤ a → mask.getLsbD a = false) (hstill : s.seqRun = false) :
    SeqStartPasses s mask 3 :=
  (seqStartPasses_mask hfits).succ rfl hstill

theorem seqStartPasses_free (hfits : ∀ a, s.inst.nAxes ≤ a → mask.getLsbD a = false) (hstill : s.seqRun = false)
    (hfree : ∀ a, mask.getLsbD a = true → s.contBusy a = false) : SeqStartPasses s mask 4 :=
  (seqStartPasses_still hfits hstill).succ rfl ((any_lanesOf_eq_false hfits).mpr hfree)

theorem seqStartPasses_period (hfits : ∀ a, s.inst.nAxes ≤ a → mask.getLsbD a = false) (hstill : s.seqRun = false)
    (hfree : ∀ a, mask.getLsbD a = true → s.contBusy a = false) (hperiod : s.seqPeriod ≠ 0) :
    SeqStartPasses s mask 5 :=
  (seqStartPasses_free hfits hstill hfree).succ rfl (decide_eq_false hperiod)

theorem seqStartPasses_lengths (hfits : ∀ a, s.inst.nAxes ≤ a → mask.getLsbD a = false) (hstill : s.seqRun = false)
    (hfree : ∀ a, mask.getLsbD a = true → s.contBusy a = false) (hperiod : s.seqPeriod ≠ 0) (hpos : 0 < len)
    (hshortest : IsShortest s mask len) : SeqStartPasses s mask 7 := by
  have hmask : SeqStartPasses s mask 6 :=
    (seqStartPasses_period hfits hstill hfree hperiod).succ rfl (decide_eq_false hshortest.mask_ne_zero)
  have hlen : s.shortest (lanesOf s.inst.nAxes mask) ≠ 0 := hshortest.shortest_eq hfits ▸ hpos.ne'
  exact hmask.succ rfl (decide_eq_false hlen)

end

/-- Settles O24: in each clause the checks before pass, and the next one fails. -/
theorem seqStartFaultsInOrder : Obligations.SeqStartFaultsInOrder := by
  intro s mask
  refine ⟨fun hmisfit => ?mask, fun hfits hrun => ?running, fun hfits hstill hbusy => ?busy,
    fun hfits hstill hfree hperiod => ?period, fun hfits hstill hfree hperiod hempty => ?empty,
    fun len hpos hfits hstill hfree hperiod hshortest hcheck hunequal => ?mismatch,
    fun len hpos hfits hstill hfree hperiod hshortest hequal hunwritten => ?unwritten⟩
  case mask =>
    refine seqStartPasses_axis.faulted rfl (Bool.of_not_eq_false fun hfalse => ?_)
    exact hmisfit (maskNamesNoAxis_eq_false.mp hfalse)
  case running => exact (seqStartPasses_mask hfits).faulted rfl hrun
  case busy =>
    refine (seqStartPasses_still hfits hstill).faulted rfl (Bool.of_not_eq_false fun hfalse => ?_)
    exact hbusy ((any_lanesOf_eq_false hfits).mp hfalse)
  case period => exact (seqStartPasses_free hfits hstill hfree).faulted rfl (decide_eq_true hperiod)
  case empty =>
    have hpasses := seqStartPasses_period hfits hstill hfree hperiod
    by_cases hmask : mask = 0
    · exact hpasses.faulted rfl (decide_eq_true hmask)
    · have hshortest : IsShortest s mask 0 := hempty.resolve_left hmask
      exact (hpasses.succ rfl (decide_eq_false hmask)).faulted rfl (decide_eq_true (hshortest.shortest_eq hfits))
  case mismatch =>
    have hlen : s.shortest (lanesOf s.inst.nAxes mask) = len := IsShortest.shortest_eq hfits hshortest
    obtain ⟨a, hbit, hne⟩ := hunequal
    refine (seqStartPasses_lengths hfits hstill hfree hperiod hpos hshortest).faulted rfl ?_
    rw [hcheck, hlen, Bool.true_and, any_lanesOf_eq_true hfits]
    exact ⟨a, hbit, decide_eq_true hne⟩
  case unwritten =>
    have hlen : s.shortest (lanesOf s.inst.nAxes mask) = len := IsShortest.shortest_eq hfits hshortest
    obtain ⟨a, i, hbit, hi, hnone⟩ := hunwritten
    have hpasses := seqStartPasses_lengths hfits hstill hfree hperiod hpos hshortest
    refine (hpasses.succ rfl ?_).faulted rfl ?_
    · rw [hlen]
      exact lengthMismatch_eq_false hfits hequal
    · rw [hlen]
      exact playsUnwritten_eq_true hfits hbit hi hnone

/-! ### What writes the sequence memory (R211) -/

/-- `t` is `s` after a `SEQ_WRITE` that completed. -/
structure Stores (s t : State) (axis : Byte) (index : BitVec 16) (e : Entry) : Prop where
  still : s.seqRun = false
  stored : t = respond 0 (seqStore axis.toNat index.toNat e s)

section
variable {s t : State}

/-- No instruction but `SEQ_WRITE` writes the sequence memory. -/
theorem exec_mem_cases {i : Instr} (hrun : exec i s = .next t) :
    t.mem = s.mem ∨ ∃ axis index e, i = .seqWrite axis index e 0 ∧ Stores s t axis index e := by
  have hcommand {effect : State} {checks : List (Bool × Cause)} (hrun : command s checks effect = .next t)
      (heffect : effect.mem = s.mem) : t.mem = s.mem :=
    command_keeps (P := fun u => u.mem = s.mem) hrun (fun c => raiseFault_mem c s) fun _ => heffect
  have hentry {e : Entry} (hrun : exec e.toInstr s = .next t) : t.mem = s.mem := by
    cases (exec_toInstr e s).symm.trans hrun
    exact (playEntry_sameProgram s.lane e s).mem
  cases i with
  | seqWrite axis index e rsv =>
    rcases command_cases s _ _ with ⟨c, -, -, hfault⟩ | ⟨hpass, heffect⟩
    · cases hfault.symm.trans hrun
      exact .inl rfl
    · cases heffect.symm.trans hrun
      obtain rfl : rsv = 0 := not_not.mp (of_decide_eq_false (hpass (decide (rsv ≠ 0), .badOperand) (by simp)))
      exact .inr ⟨axis, index, e, rfl, hpass (seqRunCheck s) (by simp), rfl⟩
  | goAbs axis | goRel axis => exact .inl (hcommand hrun (moveRel_sameProgram axis.toNat _ s).mem)
  | stepLoFwd => exact .inl (hentry (e := ⟨false, .fwd⟩) hrun)
  | stepHiFwd => exact .inl (hentry (e := ⟨true, .fwd⟩) hrun)
  | stepLoRev => exact .inl (hentry (e := ⟨false, .rev⟩) hrun)
  | stepHiRev => exact .inl (hentry (e := ⟨true, .rev⟩) hrun)
  | enable | disable | setDirection | setReference | setSpeedPw | setSpeedRps | setSpeedSps | setSpeedRpm
  | contStart | contStop | swingStart | swingStop | seqSetLen | seqSetPeriod | seqStart | readReg =>
    exact .inl (hcommand hrun rfl)

/-- No agent writes the sequence memory but the command executor with a `SEQ_WRITE`, and a reset. -/
theorem Acts.mem_cases {g : Agent} (hact : Acts s g t) (hlow : t.resetIn = false) :
    t.mem = s.mem ∨ ∃ axis index e, g = .cmd ∧ decodeCommand s.cmdWord s.cmdArg = .ok (.seqWrite axis index e 0)
      ∧ Stores (acceptCommand s) t axis index e := by
  cases hact with
  | nothing => exact .inl rfl
  | present => exact .inl (presentCommand_sameProgram s).mem
  | reset => exact .inl (resetEdge_sameProgram hlow).mem
  | command hdecode hexec =>
    rcases exec_mem_cases hexec with hmem | ⟨axis, index, e, rfl, hstores⟩
    · exact .inl hmem
    · exact .inr ⟨axis, index, e, rfl, hdecode, hstores⟩
  | illegal => exact .inl rfl
  | move => exact .inl (moveStep_sameProgram _ s).mem
  | tick _ _ hlanes => exact .inl (tick_sameProgram hlanes _).mem
  | toggle | edge => exact .inl rfl

theorem seqRead_congr (h : t.mem = s.mem) (a i : Nat) : t.seqRead a i = s.seqRead a i := by
  rw [State.seqRead, State.seqRead, h]

theorem cmdValid_of_mem_due (h : Agent.cmd ∈ s.due) : s.cmdValid = true := by
  obtain ⟨-, time, htime, -⟩ := mem_due h
  obtain ⟨hready, -⟩ := Option.ite_none_right_eq_some.mp htime
  simp only [Bool.and_eq_true] at hready
  exact hready.1.2

end

/-- Settles O48: the one agent that may write a cell is the command executor, and a `SEQ_WRITE` writes its own. -/
theorem entriesKeepTheirValue : Obligations.EntriesKeepTheirValue := by
  intro s t a i e hstep hlow hlow' hi hread
  rcases step_cases hstep with ⟨g, hdue, k, hg⟩ | ⟨-, rfl⟩
  · rw [holdReset_eq_self hlow] at hdue hg
    rcases (acts_of_perform hg).mem_cases hlow' with hmem | ⟨axis, x, e', rfl, hdecode, hstill, rfl⟩
    · exact .inl ((seqRead_congr hmem a i).trans hread)
    · by_cases hcell : cellOf axis.toNat x.toNat = cellOf a i
      · obtain ⟨rfl, rfl⟩ := cellOf_inj x.isLt hi hcell
        exact .inr ⟨axis, x, e', hdecode, cmdValid_of_mem_due hdue, rfl, hstill, rfl, rfl,
          seqRead_seqStore_self _ _ e' _⟩
      · exact .inl ((seqRead_seqStore_ne (Ne.symm hcell) e' _).trans hread)
  · rw [holdReset_eq_self hlow]
    exact .inl ((seqRead_congr (passTime_sameProgram s).mem a i).trans hread)

end Sys2Proof.Machine
end

section
/-! The four entry kinds, and a tick of the sequencer, which plays one entry on every participating axis (44_sequencer R218
to R226). -/

namespace Sys2Proof.Machine

/-! ### One entry on its lane (R219 to R222, R224) -/

/-- Axis `a` after the pin writes of an entry. -/
def State.entryAxis (s : State) (a : Nat) (e : Entry) : Axis :=
  { s.ax a with stepPin := e.pulse, dirPin := lvlDir s.inst e.edir }

/-- The two pin events of an entry on axis `a`. -/
def State.entryEvents (s : State) (a : Nat) (e : Entry) : List PinEvent :=
  [⟨s.now, .step a, e.pulse⟩, ⟨s.now, .dir a, lvlDir s.inst e.edir⟩]

/-- An entry was played on axis `a`: the axis is now `x`, the pin events `events` were recorded, and nothing else changed,
the command port included. -/
structure EntryDid (s t : State) (a : Nat) (x : Axis) (events : List PinEvent) : Prop
    extends SameBeside s t events 0 where
  axis : OnlyAxis s t a x
  cmdState : t.cmdState = s.cmdState := by simp
  rspStatus : t.rspStatus = s.rspStatus := by simp
  rspData : t.rspData = s.rspData := by simp
  rspValid : t.rspValid = s.rspValid := by simp

section
variable {s : State} {a : Nat}

theorem playEntry_of_static (hcont : (s.ax a).cont = false) (e : Entry) :
    playEntry a e s = writeDir a (lvlDir s.inst e.edir) (driveStep a e.pulse s) := by
  rw [playEntry, writeStep_eq_driveStep hcont]

theorem playEntry_of_driven (hcont : (s.ax a).cont = true) (e : Entry) :
    playEntry a e s = writeDir a (lvlDir s.inst e.edir) s := by
  rw [playEntry, writeStep_eq_self hcont]

/-- On an axis whose generator does not run, an entry drives both outputs. -/
theorem playEntry_did (ha : a < s.axes.length) (hcont : (s.ax a).cont = false) (e : Entry) :
    EntryDid s (playEntry a e s) a (s.entryAxis a e) (s.entryEvents a e) := by
  rw [playEntry_of_static hcont]
  exact {
    trace := by simp [State.entryEvents]
    axis := onlyAxis_of_modAx (f := fun x => { x with stepPin := e.pulse, dirPin := lvlDir s.inst e.edir }) ha (by simp)
      (ax_modAx_of_ax_modAx (by simp) (ax_driveStep a e.pulse s)) }

/-- A running generator keeps the step output for itself (10_state R46). -/
theorem playEntry_did_of_driven (ha : a < s.axes.length) (hcont : (s.ax a).cont = true) (e : Entry) :
    EntryDid s (playEntry a e s) a { s.ax a with dirPin := lvlDir s.inst e.edir }
      [⟨s.now, .dir a, lvlDir s.inst e.edir⟩] := by
  rw [playEntry_of_driven hcont]
  exact { axis := onlyAxis_of_modAx ha (by simp) (ax_writeDir a _ s) }

theorem playEntry_did_something (ha : a < s.axes.length) (e : Entry) :
    ∃ x events, EntryDid s (playEntry a e s) a x events := by
  cases hcont : (s.ax a).cont with
  | false => exact ⟨_, _, playEntry_did ha hcont e⟩
  | true => exact ⟨_, _, playEntry_did_of_driven ha hcont e⟩

end

/-- Settles O25: each kind is the pin writes of its PulseCommand on the lane, by whether a generator drives it. -/
theorem entriesDriveTheirPins : Obligations.EntriesDriveTheirPins := by
  intro s hshaped hlane a drives
  have ha : a < s.axes.length := hlane.trans_eq hshaped.symm
  have hdrives (e : Entry) : drives e.toInstr e.pulse (lvlDir s.inst e.edir) := by
    obtain ⟨x, events, h⟩ := playEntry_did_something ha e
    refine ⟨_, exec_toInstr e s, fun hcont => ?static, fun hcont => ?driven, h.sequencer, fun k => by rw [h.mem],
      h.world, h.cmdState, h.rspStatus, h.rspData, h.rspValid, h.draws, h.sticky⟩
    case static => exact ⟨(playEntry_did ha hcont e).axis, (playEntry_did ha hcont e).trace⟩
    case driven => exact ⟨(playEntry_did_of_driven ha hcont e).axis, (playEntry_did_of_driven ha hcont e).trace⟩
  exact ⟨hdrives ⟨false, .fwd⟩, hdrives ⟨true, .fwd⟩, hdrives ⟨false, .rev⟩, hdrives ⟨true, .rev⟩⟩

/-! ### The step of the sequencer (R223) -/

section
variable {s t : State} {a : Nat} {time : Time}

theorem perform_seq (h : s.seqNext = some time) : perform .seq s = tick time s := by
  simp only [perform, h]

theorem tick_of_playLanes (hidx : s.seqIdx.toNat < s.inst.seqDepth) (hlanes : playLanes s.lanes s = .next t) :
    tick time s = .next (advanceIndex time (reorderTick s t)) := by
  rw [tick, if_neg (not_le.mpr hidx), hlanes]

theorem playLanes_cons {i : Instr} (hfetch : s.fetchEntry a = i) {u : State}
    (hexec : exec i { s with lane := a } = .next u) (rest : List Nat) :
    playLanes (a :: rest) s = playLanes rest u := by
  rw [playLanes, hfetch, hexec]

theorem fetchEntry_of_seqRead {e : Entry} (h : s.seqRead a s.seqIdx.toNat = some e) : s.fetchEntry a = e.toInstr := by
  rw [State.fetchEntry, h]

/-- The decoder and the memory's accessor read a cell alike. -/
theorem seqRead_of_decodeEntry {n : Nat} {b : Byte} {i : Instr} (hread : memRead s.mem (cellOf a n) = some b)
    (hdecode : decodeEntry b = .ok i) : ∃ e : Entry, s.seqRead a n = some e ∧ i = e.toInstr := by
  unfold decodeEntry at hdecode
  split at hdecode
  · next e hentry =>
    cases hdecode
    exact ⟨e, by rw [State.seqRead, hread]; exact hentry, rfl⟩
  · cases hdecode

end

/-- Settles O37: the lone lane's fetch is the decoded cell. -/
theorem stepRunsTheEntry : Obligations.StepRunsTheEntry := by
  intro s t a time b i hreset hdue hnext hlanes hidx hread hdecode hexec
  obtain ⟨e, hentry, rfl⟩ := seqRead_of_decodeEntry hread hdecode
  have hplay : playLanes s.lanes s = .next t := by
    rw [hlanes, playLanes_cons (fetchEntry_of_seqRead hentry) hexec, playLanes]
  rw [step_of_due_eq_singleton hreset hdue, perform_seq hnext, tick_of_playLanes hidx hplay]

/-! ### The lanes of a tick, one after the other (R218, R226) -/

/-- The two states differ at most in their axes, the trace and the lane. -/
def OnlyPlays (s t : State) : Prop := t = { s with axes := t.axes, trace := t.trace, lane := t.lane }

theorem OnlyPlays.trans {s t u : State} (h : OnlyPlays s t) (h' : OnlyPlays t u) : OnlyPlays s u := by
  unfold OnlyPlays at h h' ⊢
  rw [h'.trans (by rw [h])]

theorem playEntry_onlyPlays (a : Nat) (e : Entry) (s : State) : OnlyPlays s (playEntry a e s) := by
  unfold OnlyPlays playEntry writeStep
  split <;> rfl

/-- The entries `e` were played on the lanes `lanes`, in their order, and nothing else changed. -/
structure LanesDid (s t : State) (lanes : List Nat) (e : Nat → Entry) : Prop where
  frame : OnlyPlays s t
  length : t.axes.length = s.axes.length
  played : ∀ a ∈ lanes, t.ax a = s.entryAxis a (e a)
  others : ∀ a, a ∉ lanes → t.ax a = s.ax a
  trace : t.trace = s.trace ++ lanes.flatMap fun a => s.entryEvents a (e a)

section
variable {s u t : State} {a : Nat} {lanes : List Nat} {e : Nat → Entry}

theorem LanesDid.nil (s : State) (e : Nat → Entry) : LanesDid s s [] e where
  frame := rfl
  length := rfl
  played := nofun
  others _ _ := rfl
  trace := (List.append_nil _).symm

/-- A lane, and then the others, none of which is that lane. -/
theorem LanesDid.cons (hlane : EntryDid { s with lane := a } u a (s.entryAxis a (e a)) (s.entryEvents a (e a)))
    (hframe : OnlyPlays s u) (hrest : LanesDid u t lanes e) (hnew : a ∉ lanes) : LanesDid s t (a :: lanes) e where
  frame := hframe.trans hrest.frame
  length := hrest.length.trans hlane.length
  played b hb := by
    rcases List.mem_cons.mp hb with rfl | hb
    · rw [hrest.others _ hnew, hlane.axis.here]
    · have hsame : u.ax b = s.ax b := hlane.axis.others b fun heq => hnew (heq ▸ hb)
      rw [hrest.played b hb, State.entryAxis, hsame, hlane.inst, State.entryAxis]
  others b hb := by
    obtain ⟨hne, hb⟩ := List.ne_and_not_mem_of_not_mem_cons hb
    exact (hrest.others b hb).trans (hlane.axis.others b hne)
  trace := by
    rw [hrest.trace, hlane.trace, List.flatMap_cons, List.append_assoc]
    simp only [State.entryEvents, hlane.inst, hlane.world.now]

/-- The lanes of a tick, when every one of them exists, has its entry written and no generator. -/
theorem playLanes_did (hnodup : lanes.Nodup)
    (hlanes : ∀ a ∈ lanes, a < s.axes.length ∧ s.seqRead a s.seqIdx.toNat = some (e a) ∧ (s.ax a).cont = false) :
    ∃ t, playLanes lanes s = .next t ∧ LanesDid s t lanes e := by
  induction lanes generalizing s with
  | nil => exact ⟨s, rfl, .nil s e⟩
  | cons a rest ih =>
    obtain ⟨hnew, hrest⟩ := List.nodup_cons.mp hnodup
    obtain ⟨⟨ha, hread, hcont⟩, hlanes⟩ := List.forall_mem_cons.mp hlanes
    have hlane := playEntry_did (s := { s with lane := a }) ha hcont (e a)
    have hframe : OnlyPlays s (playEntry a (e a) { s with lane := a }) := playEntry_onlyPlays a (e a) { s with lane := a }
    obtain ⟨t, hplay, hdid⟩ := ih (s := playEntry a (e a) { s with lane := a }) hrest fun b hb => by
      obtain ⟨hb', hread', hcont'⟩ := hlanes b hb
      have hsame := hlane.axis.others b fun heq => hnew (heq ▸ hb)
      rw [hlane.length, hlane.toSameBlock.seqRead, hlane.sequencer.idx, hsame]
      exact ⟨hb', hread', hcont'⟩
    refine ⟨t, ?_, hdid.cons hlane hframe hnew⟩
    rw [playLanes_cons (fetchEntry_of_seqRead hread) (exec_toInstr (e a) _)]
    exact hplay

end

/-! ### The whole tick (R223, R225, R226) -/

/-- What a tick does not write. -/
structure TickKeeps (s t : State) : Prop where
  world : SameWorld s t
  mem : t.mem = s.mem
  period : t.seqPeriod = s.seqPeriod
  mask : t.seqMask = s.seqMask
  fin : t.seqEnd = s.seqEnd
  cmdState : t.cmdState = s.cmdState
  rspStatus : t.rspStatus = s.rspStatus
  rspData : t.rspData = s.rspData
  rspValid : t.rspValid = s.rspValid
  sticky : t.faultSticky = s.faultSticky

/-- A tick of nominal time `time` played the entries `e`: the index advances, and the schedule ends or goes on. -/
structure TickDid (s t : State) (time : Time) (e : Nat → Entry) : Prop extends TickKeeps s t where
  length : t.axes.length = s.axes.length
  played : ∀ a ∈ s.lanes, t.ax a = s.entryAxis a (e a)
  others : ∀ a, a ∉ s.lanes → t.ax a = s.ax a
  trace : ∃ events, t.trace = s.trace ++ events ∧ events.Perm (s.lanes.flatMap fun a => s.entryEvents a (e a))
  idx : t.seqIdx = s.seqIdx + 1
  last : s.seqIdx + 1 = s.seqEnd → t.seqRun = false ∧ t.seqNext = s.seqNext
  more : s.seqIdx + 1 ≠ s.seqEnd → t.seqRun = s.seqRun ∧ t.seqNext = some (time + (s.seqPeriod.toNat : Rat))

section
variable {s t u : State} {lanes : List Nat} {time : Time} {e : Nat → Entry}

theorem advanceIndex_of_last (h : s.seqIdx + 1 = s.seqEnd) (time : Time) :
    advanceIndex time s = { s with seqIdx := s.seqIdx + 1, seqRun := false } :=
  if_pos h

theorem advanceIndex_of_more (h : s.seqIdx + 1 ≠ s.seqEnd) (time : Time) :
    advanceIndex time s
      = { s with seqIdx := s.seqIdx + 1, seqNext := some (time + (s.seqPeriod.toNat : Rat)) } :=
  if_neg h

theorem TickKeeps.advanceIndex (h : TickKeeps s t) (time : Time) : TickKeeps s (advanceIndex time t) := by
  unfold Machine.advanceIndex
  split <;> exact { h with world := { h.world with } }

/-- The lane is handed back. -/
theorem OnlyPlays.tickKeeps (h : OnlyPlays s u) : TickKeeps s (reorderTick s u) := by
  rw [h]
  exact ⟨⟨rfl, rfl, rfl, rfl, rfl, rfl, rfl, rfl, rfl⟩, rfl, rfl, rfl, rfl, rfl, rfl, rfl, rfl, rfl⟩

/-- The free order of a tick's events is an order of the lanes' events. -/
theorem LanesDid.reordered (h : LanesDid s u lanes e) :
    ∃ events, (reorderTick s u).trace = s.trace ++ events
      ∧ events.Perm (lanes.flatMap fun a => s.entryEvents a (e a)) := by
  refine ⟨_, rfl, ?_⟩
  rw [h.trace, List.drop_left]
  exact inFreeOrder_perm _ _

/-- The end of the tick, after its lanes. -/
theorem LanesDid.tickDid (h : LanesDid s u s.lanes e) (time : Time) :
    TickDid s (advanceIndex time (reorderTick s u)) time e := by
  have hkeeps := h.frame.tickKeeps
  have hkept := hkeeps.advanceIndex time
  have hidx : (reorderTick s u).seqIdx = s.seqIdx := by rw [h.frame]; rfl
  have hnext : (reorderTick s u).seqNext = s.seqNext := by rw [h.frame]; rfl
  have hrun : (reorderTick s u).seqRun = s.seqRun := by rw [h.frame]; rfl
  by_cases hlast : s.seqIdx + 1 = s.seqEnd
  · rw [advanceIndex_of_last (by rw [hidx, hkeeps.fin, hlast])] at hkept ⊢
    exact ⟨hkept, h.length, h.played, h.others, h.reordered, congrArg (· + 1) hidx, fun _ => ⟨rfl, hnext⟩,
      fun hne => absurd hlast hne⟩
  · rw [advanceIndex_of_more (by rwa [hidx, hkeeps.fin]), hkeeps.period] at hkept ⊢
    exact ⟨hkept, h.length, h.played, h.others, h.reordered, congrArg (· + 1) hidx, fun heq => absurd heq hlast,
      fun _ => ⟨hrun, rfl⟩⟩

/-- A tick plays when every participating axis exists, has its entry written and no generator. -/
theorem perform_seq_did (hshaped : s.Shaped) (hidx : s.seqIdx.toNat < s.inst.seqDepth) (hnext : s.seqNext = some time)
    (hlanes : ∀ a ∈ s.lanes, s.seqRead a s.seqIdx.toNat = some (e a) ∧ (s.ax a).cont = false) :
    ∃ t, perform .seq s = .next t ∧ TickDid s t time e := by
  obtain ⟨u, hplay, hdid⟩ := playLanes_did (e := e) (nodup_lanesOf s.inst.nAxes s.seqMask) fun a ha =>
    ⟨(mem_lanesOf.mp ha).1.trans_eq hshaped.symm, hlanes a ha⟩
  exact ⟨_, (perform_seq hnext).trans (tick_of_playLanes hidx hplay), hdid.tickDid time⟩

end

/-- Settles O26: the lanes are played one after the other, and the tick ends. -/
theorem tickPlaysOneEntryPerLane : Obligations.TickPlaysOneEntryPerLane := by
  intro s time e hshaped hidx hnext hlanes level
  have hlevel : level = fun a => lvlDir s.inst (e a).edir := funext fun a => (lvlDir_eq_ite s.inst (e a).edir).symm
  clear_value level
  subst hlevel
  obtain ⟨t, hperform, h⟩ := perform_seq_did hshaped hidx hnext hlanes
  exact ⟨t, hperform, h.played, h.others, h.trace, h.idx, h.last, h.more, h.mask, h.fin, h.period,
    fun k => by rw [h.mem], h.world, h.cmdState, h.rspStatus, h.rspData, h.rspValid, h.sticky, h.length⟩

end Sys2Proof.Machine
end

section
/-! The whole run of a sequence, alone (44_sequencer R217, R223 to R227): a tick at a time, then by induction on the ticks
left. -/

namespace Sys2Proof.Machine

/-! ### The sequencer is alone -/

/-- Where no host input is to come and no generator or swing timer runs, only the move engine and the sequencer can have
a step scheduled. -/
theorem State.Quiet.agentTime_eq_none {s : State} (h : s.Quiet) {g : Agent} (hg : g ∈ s.agents) (hmove : g ≠ .move)
    (hseq : g ≠ .seq) : s.agentTime g = none := by
  cases g with
  | host => simp [State.agentTime, State.hostTime, h.no_commands]
  | rst => simp [State.agentTime, h.no_resets]
  | cmd => simp [State.agentTime, h.no_command]
  | move => exact absurd rfl hmove
  | seq => exact absurd rfl hseq
  | swg a =>
    have hswing := (still_of_contBusy (h.no_motion a (swg_mem_agents.mp hg))).2
    simp [State.agentTime, hswing]
  | pwm a =>
    have hcont := (still_of_contBusy (h.no_motion a (pwm_mem_agents.mp hg))).1
    simp [State.agentTime, hcont]

/-- Quiet is a matter of the inputs and of the axes' roles. -/
theorem State.Quiet.of_same {s t : State} (h : s.Quiet) (world : SameWorld s t)
    (role : ∀ a, (s.ax a).SameRole (t.ax a)) : t.Quiet where
  no_reset := world.resetIn.trans h.no_reset
  no_command := world.cmdValid.trans h.no_command
  no_commands := world.cmdStream.trans h.no_commands
  no_resets := world.resetStream.trans h.no_resets
  no_motion a ha := (contBusy_of_sameRole (role a)).trans (h.no_motion a (world.inst ▸ ha))

theorem count_seq_agents (s : State) : s.agents.count .seq = 1 := by
  simp [State.agents, List.count_eq_zero]

theorem earliest_mem {l : List Time} {t : Time} (h : earliest l = some t) : t ∈ l := by
  induction l generalizing t with
  | nil => cases h
  | cons x l ih =>
    simp only [earliest] at h
    split at h
    · cases h
      exact List.mem_cons_self
    · next u hu =>
      cases h
      split
      · exact List.mem_cons_self
      · exact List.mem_cons_of_mem x (ih hu)

/-- Events that all come at one time come then. -/
theorem earliest_eq_of_forall {l : List Time} {t : Time} (ht : t ∈ l) (hall : ∀ u ∈ l, u = t) :
    earliest l = some t := by
  cases hl : earliest l with
  | none => simp [earliest_eq_none.mp hl] at ht
  | some u => rw [hall u (earliest_mem hl)]

/-- A tick leaves what other agents rely on of every axis. -/
theorem TickDid.sameRole {s t : State} {time : Time} {e : Nat → Entry} (h : TickDid s t time e) (a : Nat) :
    (s.ax a).SameRole (t.ax a) := by
  by_cases ha : a ∈ s.lanes
  · rw [h.played a ha]
    exact ⟨rfl, rfl, rfl⟩
  · rw [h.others a ha]
    exact ⟨rfl, rfl, rfl⟩

/-- A sequence runs, its next tick is scheduled at `time`, and nothing else runs or is to come. -/
structure Playing (s : State) (time : Time) : Prop where
  inv : s.Inv
  quiet : s.Quiet
  idle : s.cmdState = .idle
  running : s.seqRun = true
  next : s.seqNext = some time

/-- The entries at index `i`, lane by lane; where one is unwritten, any. -/
def State.entriesAt (s : State) (i : Nat) (a : Nat) : Entry := (s.seqRead a i).getD default

theorem entriesAt_eq {s : State} {i a : Nat} {e : Entry} (h : s.seqRead a i = some e) : s.entriesAt i a = e := by
  rw [State.entriesAt, h, Option.getD_some]

namespace Playing
variable {s t : State} {time : Time}

theorem good (h : Playing s time) : s.SeqGood := h.inv.seq_good h.running

theorem agentTime_sequencer (h : Playing s time) : s.agentTime .seq = some time :=
  agentTime_seq.mpr ⟨h.running, h.next⟩

theorem agentTime_eq_none (h : Playing s time) {g : Agent} (hg : g ∈ s.agents) (hne : g ≠ .seq) :
    s.agentTime g = none := by
  by_cases hmove : g = .move
  · simp [hmove, State.agentTime, h.idle]
  · exact h.quiet.agentTime_eq_none hg hmove hne

theorem isDue_iff (h : Playing s time) {g : Agent} (hg : g ∈ s.agents) :
    s.isDue g = true ↔ g = .seq ∧ time ≤ s.now := by
  by_cases hseq : g = .seq
  · simp [hseq, State.isDue, h.agentTime_sequencer]
  · simp [hseq, isDue_of_agentTime_eq_none (h.agentTime_eq_none hg hseq)]

theorem due_before (h : Playing s time) (hnow : s.now < time) : s.due = [] :=
  List.filter_eq_nil_iff.mpr fun _ hg hdue => absurd ((h.isDue_iff hg).mp hdue).2 (not_le.mpr hnow)

theorem due_at (h : Playing s time) (hnow : s.now = time) : s.due = [.seq] := by
  have hdue : s.due = s.agents.filter (· == .seq) := List.filter_congr fun g hg => by
    rw [Bool.eq_iff_iff, h.isDue_iff hg, beq_iff_eq, and_iff_left hnow.ge]
  rw [hdue, List.filter_beq, count_seq_agents]
  rfl

theorem passTime_to_tick (h : Playing s time) (hnow : s.now ≤ time) : passTime s = { s with now := time } := by
  have hearliest : earliest (s.agents.filterMap s.agentTime) = some time := by
    refine earliest_eq_of_forall (List.mem_filterMap.mpr ⟨.seq, by simp [State.agents], h.agentTime_sequencer⟩) ?_
    intro t ht
    obtain ⟨g, hg, hgt⟩ := List.mem_filterMap.mp ht
    by_cases hseq : g = .seq
    · rw [hseq, h.agentTime_sequencer] at hgt
      exact (Option.some.inj hgt).symm
    · rw [h.agentTime_eq_none hg hseq] at hgt
      cases hgt
  simp only [passTime, hearliest, if_pos hnow]

/-- The passage of time leaves the sequencer alone. -/
theorem atTime (h : Playing s time) (now : Time) : Playing { s with now := now } time where
  inv := h.inv.of_sameAxes {} rfl h.inv.codes fun _ => rfl
  quiet := { h.quiet with }
  idle := h.idle
  running := h.running
  next := h.next

theorem idx_lt_depth (h : Playing s time) : s.seqIdx.toNat < s.inst.seqDepth :=
  h.good.idx_lt.trans_le h.inv.end_le

/-- Every entry of a running sequence was written when it started (R216). -/
theorem seqRead_eq (h : Playing s time) {a i : Nat} (ha : a ∈ s.lanes) (hi : i < s.seqEnd.toNat) :
    s.seqRead a i = some (s.entriesAt i a) := by
  obtain ⟨e, he⟩ := Option.isSome_iff_exists.mp (h.good.written a ha i hi)
  rw [he, entriesAt_eq he]

/-- The tick that is due plays. -/
theorem perform_tick (h : Playing s time) :
    ∃ t, perform .seq s = .next t ∧ TickDid s t time (s.entriesAt s.seqIdx.toNat) :=
  perform_seq_did h.inv.axes_length h.idx_lt_depth h.next fun a ha =>
    ⟨h.seqRead_eq ha h.good.idx_lt, (still_of_contBusy (h.good.not_busy a ha)).1⟩

/-- A tick is two steps of the machine: the time to it passes, and the sequencer acts. -/
theorem run_tick (h : Playing s time) (hnow : s.now < time) :
    ∃ t, (∀ k, Sys2Proof.core.run (k + 2) s = Sys2Proof.core.run k t)
      ∧ TickDid { s with now := time } t time (s.entriesAt s.seqIdx.toNat) ∧ t.Inv := by
  have hpass : step s = .next { s with now := time } := by
    rw [step_of_none_due h.quiet.no_reset (h.due_before hnow), h.passTime_to_tick hnow.le]
  have hend := h.atTime time
  obtain ⟨t, hperform, hdid⟩ := hend.perform_tick
  have hact := (step_of_due_eq_singleton hend.quiet.no_reset (hend.due_at rfl)).trans hperform
  refine ⟨t, fun k => ?_, hdid, (acts_of_perform hperform).inv hend.inv⟩
  rw [run_succ (M := Sys2Proof.core) hpass, run_succ (M := Sys2Proof.core) hact]

/-- After a tick that is not the last the sequencer is still alone. -/
theorem of_tickDid {e : Nat → Entry} (h : Playing s time) (hinv : t.Inv) (hdid : TickDid s t time e)
    (hmore : s.seqIdx + 1 ≠ s.seqEnd) : Playing t (time + (s.seqPeriod.toNat : Rat)) where
  inv := hinv
  quiet := h.quiet.of_same hdid.world hdid.sameRole
  idle := hdid.cmdState.trans h.idle
  running := (hdid.more hmore).1.trans h.running
  next := (hdid.more hmore).2

/-- The ticks come apart: a period is at least one microsecond (R214). -/
theorem period_pos (h : Playing s time) : (0 : Rat) < (s.seqPeriod.toNat : Rat) := by
  exact_mod_cast h.good.period

end Playing

/-! ### What a sequence has played -/

/-- The pin events `events` are those of a tick at `time` that plays index `i` of the state's program, in any order. -/
def State.TickEvents (s : State) (time : Time) (i : Nat) (events : List PinEvent) : Prop :=
  ∀ e : Nat → Entry, (∀ a ∈ s.lanes, s.seqRead a i = some (e a)) →
    events.Perm (s.lanes.flatMap fun a =>
      [⟨time, .step a, (e a).pulse⟩, ⟨time, .dir a, lvlDir s.inst (e a).edir⟩])

/-- `n` ticks, the first at `t1`, played the sequence to its end. -/
structure PlayedOut (s t : State) (t1 : Time) (n : Nat) : Prop where
  run : t.seqRun = false
  idx : t.seqIdx = s.seqEnd
  mask : t.seqMask = s.seqMask
  fin : t.seqEnd = s.seqEnd
  now : t.now = t1 + ((n : Rat) - 1) * (s.seqPeriod.toNat : Rat)
  played : ∀ a ∈ s.lanes, ∀ e, s.seqRead a (s.seqEnd.toNat - 1) = some e → t.ax a = s.entryAxis a e
  others : ∀ a, a ∉ s.lanes → t.ax a = s.ax a
  trace : ∃ ticks : List (List PinEvent), t.trace = s.trace ++ ticks.flatten ∧ ticks.length = n
    ∧ ∀ (j : Nat) events, ticks[j]? = some events →
      s.TickEvents (t1 + (j : Rat) * (s.seqPeriod.toNat : Rat)) (s.seqIdx.toNat + j) events
  mem : t.mem = s.mem
  sticky : t.faultSticky = s.faultSticky

section
variable {s t u : State} {time : Time} {n : Nat} {events : List PinEvent}

theorem toNat_succ_of_lt {i e : BitVec 16} (h : i.toNat < e.toNat) : (i + 1).toNat = i.toNat + 1 := by
  bv_omega

/-- The written entries are the only ones at their index. -/
theorem tickEvents_of_perm {i : Nat}
    (h : events.Perm (s.lanes.flatMap fun a => { s with now := time }.entryEvents a (s.entriesAt i a))) :
    s.TickEvents time i events := by
  intro e he
  rwa [List.flatMap_congr fun a ha => by rw [entriesAt_eq (he a ha)]] at h

theorem TickKeeps.lanes (h : TickKeeps s u) : u.lanes = s.lanes := by
  rw [State.lanes, State.lanes, h.world.inst, h.mask]

/-- After a tick the program is the same, so its ticks are. -/
theorem TickKeeps.tickEvents {i : Nat} (h : TickKeeps s u) (hevents : u.TickEvents time i events) :
    s.TickEvents time i events := by
  unfold State.TickEvents at hevents ⊢
  simpa only [h.lanes, seqRead_congr h.mem, h.world.inst] using hevents

/-- The last tick ends the sequence. -/
theorem PlayedOut.of_last (hdid : TickDid { s with now := time } t time (s.entriesAt s.seqIdx.toNat))
    (hlast : s.seqIdx + 1 = s.seqEnd) (hlt : s.seqIdx.toNat < s.seqEnd.toNat) : PlayedOut s t time 1 where
  run := (hdid.last hlast).1
  idx := hdid.idx.trans hlast
  mask := hdid.mask
  fin := hdid.fin
  now := by rw [hdid.world.now]; simp
  played a ha e he := by
    rw [← hlast, toNat_succ_of_lt hlt, Nat.add_sub_cancel] at he
    exact entriesAt_eq he ▸ hdid.played a ha
  others := hdid.others
  trace := by
    obtain ⟨events, htrace, hperm⟩ := hdid.trace
    refine ⟨[events], by simpa using htrace, rfl, fun j events' hj => ?_⟩
    obtain ⟨rfl, rfl⟩ : j = 0 ∧ events = events' := by simpa [List.getElem?_singleton] using hj
    simpa using tickEvents_of_perm hperm
  mem := hdid.mem
  sticky := hdid.sticky

/-- A tick that is not the last, and then the others. -/
theorem PlayedOut.of_more (hdid : TickDid { s with now := time } u time (s.entriesAt s.seqIdx.toNat))
    (hlt : s.seqIdx.toNat < s.seqEnd.toNat) (hrest : PlayedOut u t (time + (s.seqPeriod.toNat : Rat)) n) :
    PlayedOut s t time (n + 1) where
  run := hrest.run
  idx := hrest.idx.trans hdid.fin
  mask := hrest.mask.trans hdid.mask
  fin := hrest.fin.trans hdid.fin
  now := by rw [hrest.now, hdid.period]; push_cast; ring
  played a ha e he := by
    have hread : u.seqRead a (u.seqEnd.toNat - 1) = some e := by
      rw [hdid.fin]
      exact (seqRead_congr hdid.mem a _).trans he
    rw [hrest.played a (hdid.lanes ▸ ha) e hread, State.entryAxis, hdid.played a ha, hdid.world.inst]
    rfl
  others a ha := (hrest.others a (hdid.lanes ▸ ha)).trans (hdid.others a ha)
  trace := by
    obtain ⟨events, htrace, hperm⟩ := hdid.trace
    obtain ⟨ticks, hticks, hlength, hlater⟩ := hrest.trace
    refine ⟨events :: ticks, by rw [hticks, htrace, List.flatten_cons, List.append_assoc],
      congrArg (· + 1) hlength, fun j events' hj => ?_⟩
    cases j with
    | zero =>
      obtain rfl : events = events' := by simpa using hj
      simpa using tickEvents_of_perm hperm
    | succ j =>
      have hlate := hdid.tickEvents (hlater j events' (by simpa using hj))
      have htime : time + (s.seqPeriod.toNat : Rat) + (j : Rat) * (u.seqPeriod.toNat : Rat)
          = time + ((j + 1 : Nat) : Rat) * (s.seqPeriod.toNat : Rat) := by rw [hdid.period]; push_cast; ring
      have hidx : u.seqIdx.toNat + j = s.seqIdx.toNat + (j + 1) := by
        rw [hdid.idx, toNat_succ_of_lt hlt]; omega
      rwa [htime, hidx] at hlate
  mem := hrest.mem.trans hdid.mem
  sticky := hrest.sticky.trans hdid.sticky

/-- A sequence with `n + 1` ticks left plays to its end, tick by tick. -/
theorem Playing.run_to_end (h : Playing s time) (hnow : s.now < time)
    (hleft : s.seqIdx.toNat + (n + 1) = s.seqEnd.toNat) :
    ∃ t, Sys2Proof.core.run (2 * (n + 1)) s = .next t ∧ PlayedOut s t time (n + 1) := by
  induction n generalizing s time with
  | zero =>
    have hlt := h.good.idx_lt
    have hlast : s.seqIdx + 1 = s.seqEnd := BitVec.eq_of_toNat_eq ((toNat_succ_of_lt hlt).trans hleft)
    obtain ⟨t, hrun, hdid, -⟩ := h.run_tick hnow
    exact ⟨t, hrun 0, .of_last hdid hlast hlt⟩
  | succ n ih =>
    have hlt := h.good.idx_lt
    have hsucc := toNat_succ_of_lt hlt
    obtain ⟨u, hrun, hdid, hinv⟩ := h.run_tick hnow
    have hmore : s.seqIdx + 1 ≠ s.seqEnd := fun heq => by rw [heq] at hsucc; omega
    have hplaying : Playing u (time + (s.seqPeriod.toNat : Rat)) := (h.atTime time).of_tickDid hinv hdid hmore
    have hnow' : u.now < time + (s.seqPeriod.toNat : Rat) :=
      hdid.world.now.trans_lt (lt_add_of_pos_right time h.period_pos)
    have hidx : u.seqIdx.toNat = s.seqIdx.toNat + 1 := (congrArg BitVec.toNat hdid.idx).trans hsucc
    have hleft' : u.seqIdx.toNat + (n + 1) = u.seqEnd.toNat := by rw [hidx, hdid.fin, ← hleft]; omega
    obtain ⟨t, hrun', hplayed⟩ := ih hplaying hnow' hleft'
    exact ⟨t, (hrun _).trans hrun', .of_more hdid hlt hplayed⟩

end

/-- Settles O27: the sequencer is alone, and the ticks left are at least one. -/
theorem sequencePlaysToItsEnd : Obligations.SequencePlaysToItsEnd := by
  intro s t1 hinv hquiet hidle hrunning hnext hnow left
  have hplaying : Playing s t1 := ⟨hinv, hquiet, hidle, hrunning, hnext⟩
  have hlt := hplaying.good.idx_lt
  obtain ⟨n, hn⟩ : ∃ n, left = n + 1 := Nat.exists_eq_add_of_le' (Nat.sub_pos_of_lt hlt)
  obtain ⟨t, hrun, hplayed⟩ := hplaying.run_to_end (n := n) hnow (by omega)
  rw [← hn] at hrun hplayed
  exact ⟨t, hrun, hplayed.run, hplayed.idx, hplayed.mask, hplayed.fin, hplayed.now, hplayed.played, hplayed.others,
    hplayed.trace, fun k => by rw [hplayed.mem], hplayed.sticky⟩

end Sys2Proof.Machine
end

section
/-! Register readback (45_readback): what `READ_REG` answers and when it faults, and the values of the registers. -/

namespace Sys2Proof.Machine

/-! ### The checks and the answer of `READ_REG` (R240, R256) -/

section
variable {s : State} {axis : Byte} {r : BitVec 16}

theorem isRegister_iff : isRegister r = true ↔ r.toNat ≤ 0x06 ∨ (0x10 ≤ r.toNat ∧ r.toNat ≤ 0x16) := by
  simp only [isRegister, Bool.or_eq_true, Bool.and_eq_true, decide_eq_true_eq]

theorem isPerAxis_of_lt (h : r.toNat < 0x10) : isPerAxis r = true := decide_eq_true h

theorem isPerAxis_of_ge (h : 0x10 ≤ r.toNat) : isPerAxis r = false := decide_eq_false (not_lt.mpr h)

/-- For a register's number with the must-be-0 bits clear, the axis checks decide. -/
theorem firstFault_of_register (hreg : isRegister r = true) (c d : Cause) (rest : List (Bool × Cause)) :
    firstFault ((decide ((0 : BitVec 16) ≠ 0), c) :: (!isRegister r, d) :: rest) = firstFault rest :=
  (firstFault_of_passed rfl _ _).trans (firstFault_of_passed (by rw [hreg]; rfl) _ _)

/-- `READ_REG` answers the value of a register whose kind its axis field fits. -/
theorem exec_readReg (hreg : isRegister r = true) (hperAxis : isPerAxis r = true → axis.toNat < s.inst.nAxes)
    (hglobal : isPerAxis r = false → axis = 0) :
    exec (.readReg axis r 0) s = .next (respond (s.regValue axis.toNat r) s) := by
  refine command_passes ?_
  simp only [List.forall_mem_cons]
  refine ⟨rfl, by rw [hreg]; rfl, ?perAxis, ?global, List.forall_mem_nil _⟩
  case perAxis =>
    cases hkind : isPerAxis r
    · rfl
    · exact decide_eq_false (not_le.mpr (hperAxis hkind))
  case global =>
    cases hkind : isPerAxis r
    · exact decide_eq_false (not_not.mpr (hglobal hkind))
    · rfl

theorem respond_answers (d : Word) (s : State) : Answers (respond d s) 0 d := ⟨rfl, rfl, rfl, rfl⟩

end

/-- Settles O28: a per-axis register with its axis, or a global one with axis field 0, passes every check, and what is
left is the response. -/
theorem readRegHasNoSideEffect : Obligations.ReadRegHasNoSideEffect := by
  intro s axis r hr
  have hexec : exec (.readReg axis r 0) s = .next (respond (s.regValue axis.toNat r) s) := by
    rcases hr with ⟨hlow, haxis⟩ | ⟨hlow, hhigh, haxis⟩
    · refine exec_readReg (isRegister_iff.mpr (.inl hlow)) (fun _ => haxis) fun hkind => ?_
      rw [isPerAxis_of_lt (by omega)] at hkind
      contradiction
    · refine exec_readReg (isRegister_iff.mpr (.inr ⟨hlow, hhigh⟩)) (fun hkind => ?_) fun _ => haxis
      rw [isPerAxis_of_ge hlow] at hkind
      contradiction
  exact ⟨_, hexec, respond_answers _ s, ⟨rfl, fun _ => rfl⟩, ⟨rfl, rfl, rfl, rfl, rfl, rfl⟩, fun _ => rfl,
    ⟨rfl, rfl, rfl, rfl, rfl, rfl, rfl, rfl, rfl⟩, rfl, rfl, rfl⟩

/-- Settles O31: the check that fails first, for the operand and for each kind of register. -/
theorem readRegFaults : Obligations.ReadRegFaults := by
  intro s axis r rsv register faults
  refine ⟨fun hrsv => command_faulted (firstFault_of_failed (decide_eq_true hrsv) _ _), ?number, ?perAxis, ?global⟩
  case number =>
    rintro rfl hnone
    have hreg : isRegister r = false := Bool.eq_false_iff.mpr fun h => hnone (isRegister_iff.mp h)
    exact command_faulted ((firstFault_of_passed rfl _ _).trans (firstFault_of_failed (by rw [hreg]; rfl) _ _))
  case perAxis =>
    rintro rfl hreg hlt haxis
    have hfailed : (isPerAxis r && s.badAxis axis) = true := by
      rw [isPerAxis_of_lt hlt]; exact decide_eq_true haxis
    exact command_faulted ((firstFault_of_register (isRegister_iff.mpr hreg) _ _ _).trans
      (firstFault_of_failed hfailed _ _))
  case global =>
    rintro rfl hreg hge haxis
    have hkind := isPerAxis_of_ge hge
    have hpassed : (isPerAxis r && s.badAxis axis) = false := by rw [hkind]; rfl
    have hfailed : (!isPerAxis r && decide (axis ≠ 0)) = true := by rw [hkind]; exact decide_eq_true haxis
    exact command_faulted ((firstFault_of_register (isRegister_iff.mpr hreg) _ _ _).trans
      ((firstFault_of_passed hpassed _ _).trans (firstFault_of_failed hfailed _ _)))

/-! ### The layouts of `AXIS_STATUS` and `PARAMS` (R241, R254) -/

theorem toNat_append_eq_add {m n : Nat} (x : BitVec m) (y : BitVec n) :
    (x ++ y).toNat = x.toNat * 2 ^ n + y.toNat := by
  rw [BitVec.toNat_append, ← Nat.shiftLeft_add_eq_or_of_lt y.isLt, Nat.shiftLeft_eq]

/-- A flag at a place of a word, as a bit and as a choice. -/
theorem ite_eq_toNat_mul (b : Bool) (n : Nat) : (if b = true then n else 0) = b.toNat * n := by
  cases b <;> simp

theorem toNat_append_ofBool_lt {n k : Nat} {x : BitVec n} (h : x.toNat < 2 ^ k) (b : Bool) :
    (x ++ BitVec.ofBool b).toNat < 2 ^ (k + 1) := by
  have hbit := b.toNat_lt
  rw [BitVec.append_ofBool, BitVec.toNat_concat]
  omega

/-- `AXIS_STATUS` is eight flags, and ends at bit 7 (R241). -/
theorem axisStatus_toNat_lt (s : State) (a : Nat) : (s.axisStatus a).toNat < 2 ^ 8 := by
  unfold State.axisStatus
  iterate 8 refine toNat_append_ofBool_lt ?_ _
  exact Nat.one_pos

/-- The flags of `AXIS_STATUS`, from bit 0 up (R241). -/
theorem axisStatus_flags (s : State) (a : Nat) :
    (s.axisStatus a).getLsbD 0 = (s.ax a).en ∧ (s.axisStatus a).getLsbD 1 = decide ((s.ax a).dir = .rev)
      ∧ (s.axisStatus a).getLsbD 2 = (s.ax a).cont ∧ (s.axisStatus a).getLsbD 3 = (s.ax a).swing
      ∧ (s.axisStatus a).getLsbD 4 = (s.ax a).stepPin ∧ (s.axisStatus a).getLsbD 5 = (s.ax a).dirPin
      ∧ (s.axisStatus a).getLsbD 6 = (s.ax a).enPin ∧ (s.axisStatus a).getLsbD 7 = s.seqOwns a := by
  simp only [State.axisStatus, BitVec.append_ofBool, BitVec.getLsbD_concat_succ, BitVec.getLsbD_concat_zero, and_self]

theorem nAxes_le {p : Config.Params} (h : p.wf = true) : p.nAxes ≤ 32 := by
  simp only [Config.Params.wf, Bool.and_eq_true, decide_eq_true_eq] at h
  obtain ⟨⟨⟨⟨⟨⟨⟨⟨-, haxes⟩, -⟩, -⟩, -⟩, -⟩, -⟩, -⟩, -⟩ := h
  exact haxes

/-- `PARAMS` as the sum of its fields (R254). -/
theorem paramsWord_toNat {p : Config.Params} (hdepth : p.seqDepth ≤ 65535) (haxes : p.nAxes ≤ 32) :
    (paramsWord p).toNat = p.seqDepth + 2 ^ 16 * (p.nAxes - 1) + p.checkEqualLength.toNat * 2 ^ 24
      + p.stopContCancelsSwing.toNat * 2 ^ 25 + p.livePwmUpdate.toNat * 2 ^ 26 + p.dirLevelFwd.toNat * 2 ^ 27
      + p.enLevelOn.toNat * 2 ^ 28 := by
  have hd : p.seqDepth % 2 ^ 16 = p.seqDepth := Nat.mod_eq_of_lt (by omega)
  have ha : (p.nAxes - 1) % 2 ^ 5 = p.nAxes - 1 := Nat.mod_eq_of_lt (by omega)
  simp only [paramsWord, toNat_append_eq_add, BitVec.toNat_ofBool, BitVec.toNat_ofNat, hd, ha]
  omega

/-! ### Roundings and field widths -/

/-- A word holds an integer of its range without loss. -/
theorem toNat_ofInt_of_range {i : Int} (h : 0 ≤ i) (h' : i < 2 ^ 32) : ((BitVec.ofInt 32 i).toNat : Int) = i := by
  rw [BitVec.toNat_ofInt]; omega

theorem toNat_ofNat_of_lt {n : Nat} (h : n < 2 ^ 32) : (BitVec.ofNat 32 n).toNat = n := by
  rw [BitVec.toNat_ofNat, Nat.mod_eq_of_lt h]

/-- A reference in `[0, 360)` is at most 359999 millidegrees, rounded down (R242). -/
theorem refMdeg_floor {ref : Rat} (h : 0 ≤ ref) (h' : ref < 360) :
    ((refMdeg ref).toNat : Int) = ⌊ref * 1000⌋ ∧ (refMdeg ref).toNat ≤ 359999 := by
  have hnonneg : 0 ≤ ⌊ref * 1000⌋ := Int.floor_nonneg.mpr (by positivity)
  have hlt : ⌊ref * 1000⌋ < 360000 := Int.floor_lt.mpr (by push_cast; linarith)
  have heq : ((refMdeg ref).toNat : Int) = ⌊ref * 1000⌋ := toNat_ofInt_of_range hnonneg (hlt.trans (by norm_num))
  exact ⟨heq, by omega⟩

/-- The ratio saturates at the width of the register (R244). -/
theorem revRatioMilli_floor {ratio : Rat} (h : 0 ≤ ratio) :
    ((revRatioMilli ratio).toNat : Int) = min (2 ^ 32 - 1) ⌊ratio * 1000⌋ := by
  have hnonneg : 0 ≤ ⌊ratio * 1000⌋ := Int.floor_nonneg.mpr (by positivity)
  exact toNat_ofInt_of_range (i := min 4294967295 ⌊ratio * 1000⌋) (by omega) (by omega)

/-- The frequency rounded down is the quotient of naturals (R245). -/
theorem pwmFreq_of_running {x : Axis} (h : x.cont = true) :
    ((pwmFreq x).toNat : Int) = ⌊(500000000 : Rat) / (x.contPw : Rat)⌋ := by
  have hle : 500000000 / x.contPw ≤ 500000000 := Nat.div_le_self _ _
  rw [pwmFreq, if_pos h, toNat_ofNat_of_lt (by omega)]
  exact (Rat.floor_natCast_div_natCast 500000000 x.contPw).symm

theorem pwmFreq_of_still {x : Axis} (h : x.cont = false) : (pwmFreq x).toNat = 0 := by
  rw [pwmFreq, h]; rfl

theorem swingPeriod_of_swinging {x : Axis} (h : x.swing = true) (hmax : x.swingMs ≤ 2147483647) :
    (swingPeriod x).toNat = x.swingMs := by
  rw [swingPeriod, if_pos h, toNat_ofNat_of_lt (by omega)]

theorem swingPeriod_of_still {x : Axis} (h : x.swing = false) : (swingPeriod x).toNat = 0 := by
  rw [swingPeriod, h]; rfl

/-! ### The registers' values (R241 to R254) -/

/-- Settles O29: register by register, the flags and then the roundings, under the ranges of the fields. -/
theorem axisRegistersReadTheirFields : Obligations.AxisRegistersReadTheirFields := by
  intro s a hgood hdepth hratio x v
  obtain ⟨hen, hdir, hcont, hswing, hstep, hdirPin, henPin, howns⟩ := axisStatus_flags s a
  have hpw := hgood.pw_max
  have hlen := hgood.seqLen_le
  exact ⟨⟨hen, hdir, hcont, hswing, hstep, hdirPin, henPin, howns, axisStatus_toNat_lt s a⟩,
    refMdeg_floor hgood.ref_nonneg hgood.ref_lt,
    toNat_ofNat_of_lt (by omega),
    revRatioMilli_floor hratio.le,
    pwmFreq_of_running, pwmFreq_of_still,
    fun h => swingPeriod_of_swinging h hgood.swing_ms_max, swingPeriod_of_still,
    toNat_ofNat_of_lt (by omega)⟩

/-- Settles O30: the fields zero-extended, and the sum of the fields of `PARAMS`. -/
theorem globalRegistersReadTheirFields : Obligations.GlobalRegistersReadTheirFields := by
  intro s hwf v
  refine ⟨?status, BitVec.toNat_setWidth_of_le (by decide), rfl, rfl, BitVec.toNat_setWidth_of_le (by decide),
    BitVec.toNat_setWidth_of_le (by decide), ?params⟩
  case status =>
    have hval : v 0x10 = (0#31 ++ BitVec.ofBool s.seqRun).toNat := rfl
    rw [hval]; cases s.seqRun <;> rfl
  case params =>
    simp only [ite_eq_toNat_mul]
    exact paramsWord_toNat (seqDepth_le hwf) (nAxes_le hwf)

end Sys2Proof.Machine
end

section
/-! The faults (60_exceptions): the busy faults (R262), that a command either completes or faults with no effect (R261), and
that the machine never stops (R266). -/

namespace Sys2Proof.Machine

section
variable {s : State}

/-! ### The busy faults (R262) -/

/-- When the axis is right and the check after it passes, the third check decides. -/
theorem command_faulted_of_third {axis : Byte} {second : Bool × Cause} {failed : Bool} {c : Cause}
    {rest : List (Bool × Cause)} {effect : State} (haxis : axis.toNat < s.inst.nAxes) (hsecond : second.1 = false)
    (hfailed : failed = true) :
    ∃ t, command s (axisCheck s axis :: second :: (failed, c) :: rest) effect = .next t ∧ Faulted s t c :=
  command_faulted ((firstFault_axisCheck haxis _).trans
    ((firstFault_of_passed hsecond _ _).trans (firstFault_of_failed hfailed _ _)))

theorem seqWrite_faulted_of_running {axis : Byte} {index : BitVec 16} (haxis : axis.toNat < s.inst.nAxes)
    (hindex : index.toNat < s.inst.seqDepth) (hrun : s.seqRun = true) (e : Entry) :
    ∃ t, exec (.seqWrite axis index e 0) s = .next t ∧ Faulted s t .busySequencer :=
  command_faulted ((firstFault_axisCheck haxis _).trans ((firstFault_of_passed rfl _ _).trans
    ((firstFault_of_passed (decide_eq_false (not_le.mpr hindex)) _ _).trans (firstFault_of_failed hrun _ _))))

theorem seqSetPeriod_faulted_of_running {period : Int} (hperiod : 0 < period) (hrun : s.seqRun = true) :
    ∃ t, exec (.seqSetPeriod 0 period) s = .next t ∧ Faulted s t .busySequencer :=
  command_faulted ((firstFault_of_passed rfl _ _).trans
    ((firstFault_of_passed (decide_eq_false (not_le.mpr hperiod)) _ _).trans (firstFault_of_failed hrun _ _)))

end

/-- Settles O35: the busy check is the next to decide once the axis and the operand are right, and for a move the
sequencer's ownership comes before the generator and the swing timer. -/
theorem busyFaults : Obligations.BusyFaults := by
  intro s axis haxis faults
  refine ⟨fun hrun hmask => ?owned, fun hrun => ?running, fun hbusy hfree m => ?continuous⟩
  case owned =>
    have howns : s.seqOwns axis.toNat = true := Bool.and_eq_true_iff.mpr ⟨hrun, hmask⟩
    exact ⟨fun _ => command_faulted_of_third haxis rfl howns,
      fun _ => ⟨command_faulted_of_operand haxis howns, command_faulted_of_operand haxis howns⟩,
      command_faulted_of_operand haxis howns, command_faulted_of_operand haxis howns,
      fun _ hp => command_faulted_of_third haxis (decide_eq_false (not_le.mpr hp)) howns,
      command_faulted_of_operand haxis howns⟩
  case running =>
    exact ⟨fun _ e hx => seqWrite_faulted_of_running haxis hx hrun e,
      fun _ hn => command_faulted_of_third haxis (decide_eq_false (not_lt.mpr hn)) hrun,
      fun _ hp => seqSetPeriod_faulted_of_running hp hrun⟩
  case continuous =>
    have hcont : s.contBusy axis.toNat = true := Bool.or_eq_true_iff.mpr hbusy
    exact ⟨command_faulted_of_third haxis hfree hcont, command_faulted_of_third haxis hfree hcont⟩

/-! ### A command completes or faults (R261, R264, R265) -/

/-- No fault was recorded since `s`, and the command has answered `OK` or its move is under way. -/
def Completed (s t : State) : Prop :=
  t.faultSticky = s.faultSticky ∧ ((∃ d, Answers t 0 d) ∨ ∃ m, t.cmdState = .moving m)

/-- All that a command can come to: a fault with no other effect, or its completion. -/
def FaultedOrCompleted (s t : State) : Prop := (∃ c, Faulted s t c) ∨ Completed s t

section
variable {s t : State}

theorem respond_completed (hsticky : t.faultSticky = s.faultSticky) (d : Word) : Completed s (respond d t) :=
  ⟨hsticky, .inl ⟨d, respond_answers d t⟩⟩

/-- A move answers at once when it has no step, and is under way otherwise (41_discrete_motion R150). -/
theorem moveRel_completed (a : Nat) (rel : Rat) (s : State) : Completed s (moveRel a rel s) := by
  by_cases hsteps : stepCount (s.ratio a) rel = 0
  · rw [moveRel_of_no_step hsteps]
    exact respond_completed rfl 0
  · rw [moveRel_of_steps hsteps]
    exact ⟨writeStep_faultSticky a true _, .inr ⟨_, writeStep_cmdState a true _⟩⟩

/-- A command answers, and completes where its effect does. -/
theorem command_answers {checks : List (Bool × Cause)} {effect : State} (h : Completed s effect) :
    ∃ t, command s checks effect = .next t ∧ FaultedOrCompleted s t := by
  rcases command_cases s checks effect with ⟨c, -, -, hfault⟩ | ⟨-, hpass⟩
  · exact ⟨_, hfault, .inl ⟨c, raiseFault_faulted c s⟩⟩
  · exact ⟨_, hpass, .inr h⟩

/-- The effect of a move may leave it under way; every other command's effect ends with its response. -/
theorem exec_answers {i : Instr} (hentry : i.isEntry = false) (s : State) :
    ∃ t, exec i s = .next t ∧ FaultedOrCompleted s t := by
  cases i with
  | goAbs axis mdeg | goRel axis mdeg => exact command_answers (moveRel_completed axis.toNat _ s)
  | enable | disable | setDirection | setReference | setSpeedPw | setSpeedRps | setSpeedSps | setSpeedRpm
  | contStart | contStop | swingStart | swingStop | seqWrite | seqSetLen | seqSetPeriod | seqStart
  | readReg => exact command_answers (respond_completed rfl _)
  | stepLoFwd | stepHiFwd | stepLoRev | stepHiRev => cases hentry

end

/-- Settles O32: command by command, and the fault of a word the decoder refuses. -/
theorem faultsHaveNoEffect : Obligations.FaultsHaveNoEffect :=
  ⟨fun _ s hentry => exec_answers hentry s,
    fun _ _ hdecode => ⟨_, runCommand_of_error hdecode, raiseFault_faulted _ _⟩⟩

/-! ### Every step answers (R266) -/

section
variable {s : State}

/-- The command executor always answers: what the decoder reads is a command, and what it refuses faults. -/
theorem runCommand_answers (s : State) : ∃ t, runCommand s = .next t := by
  cases hdecode : decodeCommand s.cmdWord s.cmdArg with
  | ok i =>
    obtain ⟨t, hexec, -⟩ := exec_answers (decodeCommand_wf hdecode).1 (acceptCommand s)
    exact ⟨t, (runCommand_of_ok hdecode).trans hexec⟩
  | error e => exact ⟨_, runCommand_of_error hdecode⟩

/-- The lanes always play, so a tick answers when its index is inside the memory. -/
theorem tick_answers (hidx : s.seqIdx.toNat < s.inst.seqDepth) (time : Time) : ∃ t, tick time s = .next t := by
  obtain ⟨u, hlanes⟩ := playLanes_next s.lanes s
  exact ⟨_, tick_of_playLanes hidx hlanes⟩

/-- Only a tick of the sequencer can fail to answer. -/
theorem perform_answers {g : Agent} (hidx : g = .seq → s.seqIdx.toNat < s.inst.seqDepth) :
    ∃ t, perform g s = .next t := by
  cases g with
  | host | rst => exact ⟨_, rfl⟩
  | cmd => exact runCommand_answers s
  | seq =>
    simp only [perform]
    split
    · next time _ => exact tick_answers (hidx rfl) time
    · exact ⟨_, rfl⟩
  | move | swg a | pwm a =>
    simp only [perform]
    split <;> exact ⟨_, rfl⟩

/-- What a step is, its answer left open: the step of a due agent, or the passage of time. -/
theorem step_eq_perform_or_passTime (s : State) :
    (∃ g ∈ (holdReset s).due, ∃ k, step s = perform g { holdReset s with draws := k })
      ∨ step s = .next (passTime (holdReset s)) := by
  simp only [step, nextStep]
  cases (holdReset s).due with
  | nil => exact .inr rfl
  | cons g l =>
    cases l with
    | nil => exact .inl ⟨g, List.mem_cons_self, (holdReset s).draws, rfl⟩
    | cons g' rest =>
      refine .inl ⟨_, ?_, _, rfl⟩
      have hlt : Config.freeChoice (holdReset s).draws % (rest.length + 2) < (g :: g' :: rest).length :=
        Nat.mod_lt _ (Nat.succ_pos _)
      exact List.getD_eq_getElem _ g hlt ▸ List.getElem_mem hlt

/-- A sequencer that is due runs, so its index is below `SEQ_END`, which is inside the memory. -/
theorem seqIdx_lt_of_due (h : s.Inv) (hdue : Agent.seq ∈ s.due) : s.seqIdx.toNat < s.inst.seqDepth := by
  obtain ⟨-, time, htime, -⟩ := mem_due hdue
  obtain ⟨hrun, -⟩ := agentTime_seq.mp htime
  exact (h.seq_good hrun).idx_lt.trans_le h.end_le

end

/-- Settles O43: a due agent answers, a due tick because the invariant keeps its index inside the memory, and the
passage of time always does. -/
theorem machineNeverStops : Obligations.MachineNeverStops := by
  intro s h
  rcases step_eq_perform_or_passTime s with ⟨g, hdue, k, hstep⟩ | hstep
  · rw [hstep]
    refine perform_answers fun hseq => ?_
    exact seqIdx_lt_of_due (s := holdReset s) (holdReset_inv h) (hseq ▸ hdue)
  · exact ⟨_, hstep⟩

end Sys2Proof.Machine
end

section
/-! Reset (70_reset_and_hazards): what the `RESET` input does to the block, that no other agent moves the line, and that
nothing but a reset undoes what R292 names. -/

namespace Sys2Proof.Machine

/-! ### The block in its reset state (R290, R291) -/

/-- `t` is the block of `s` in its reset state: the inputs, the clock, the trace and the draws are left open. -/
def InReset (s t : State) : Prop :=
  t = { State.resetOf s.inst with
    cmdWord := t.cmdWord
    cmdArg := t.cmdArg
    cmdValid := t.cmdValid
    resetIn := t.resetIn
    now := t.now
    trace := t.trace
    draws := t.draws
    cmdStream := t.cmdStream
    resetStream := t.resetStream }

section
variable {s t : State}

/-- All a change of the `RESET` input can do: it asserts the line and resets the block, or it does not assert the line
and leaves the block. -/
theorem resetEdge_cases (s : State) :
    (∃ rest, resetEdge s = resetBlock { s with resetIn := true, resetStream := rest })
      ∨ ∃ level rest, (level = true → s.resetIn = true)
        ∧ resetEdge s = { s with resetIn := level, resetStream := rest } := by
  unfold resetEdge
  split
  · exact .inr ⟨s.resetIn, s.resetStream, id, rfl⟩
  · next e rest _ =>
    split
    · exact .inl ⟨rest, rfl⟩
    · exact .inr ⟨false, rest, nofun, rfl⟩

theorem holdReset_of_asserted (h : s.resetIn = true) : holdReset s = resetBlock s := if_pos h

/-- A block held in reset has no agent with a step to take but the host and the `RESET` input. -/
theorem eq_host_or_rst_of_due {g : Agent} (hline : s.resetIn = true) (hdue : g ∈ (resetBlock s).due) :
    g = .host ∨ g = .rst := by
  obtain ⟨-, time, htime, -⟩ := mem_due hdue
  cases g with
  | host => exact .inl rfl
  | rst => exact .inr rfl
  | cmd => simp [State.agentTime, hline] at htime
  | move | seq => cases htime
  | swg a => cases htime.symm.trans (resetOf_agentTime s.inst (.swg a))
  | pwm a => cases htime.symm.trans (resetOf_agentTime s.inst (.pwm a))

/-- The step of a block held in reset is the host's, the `RESET` input's, or the passage of time; none of them leaves
the reset state or takes a command off the port. -/
theorem step_of_asserted (hline : s.resetIn = true) (hstep : step s = .next t) :
    InReset s t ∧ (s.cmdValid = true → t.cmdValid = true) := by
  rcases step_cases hstep with ⟨g, hdue, k, hg⟩ | ⟨-, rfl⟩
  · rw [holdReset_of_asserted hline] at hdue hg
    rcases eq_host_or_rst_of_due hline hdue with rfl | rfl <;> cases hg
    · unfold presentCommand
      split
      · exact ⟨rfl, id⟩
      · exact ⟨rfl, fun _ => rfl⟩
    · rcases resetEdge_cases { resetBlock s with draws := k } with ⟨rest, h⟩ | ⟨level, rest, -, h⟩ <;>
        exact h ▸ ⟨rfl, id⟩
  · rw [holdReset_of_asserted hline, passTime_eq]
    exact ⟨rfl, id⟩

end

/-! ### Who moves the `RESET` line, and the step that asserts it (R290, R291) -/

section
variable {s t : State}

/-- The two states differ at most in their axes, the trace, the move record and the response. -/
def OnlyMoves (s t : State) : Prop :=
  t = { s with
    axes := t.axes
    trace := t.trace
    cmdState := t.cmdState
    rspStatus := t.rspStatus
    rspData := t.rspData
    rspValid := t.rspValid }

theorem moveStep_onlyMoves (m : Move) (s : State) : OnlyMoves s (moveStep m s) := by
  unfold OnlyMoves moveStep endHigh endLow writeStep
  split
  · split <;> rfl
  · split
    · rfl
    · split <;> rfl

theorem moveRel_onlyMoves (a : Nat) (rel : Rat) (s : State) : OnlyMoves s (moveRel a rel s) := by
  unfold OnlyMoves moveRel writeStep
  split
  · rfl
  · split <;> rfl

theorem playLanes_onlyPlays {lanes : List Nat} (hrun : playLanes lanes s = .next t) : OnlyPlays s t :=
  playLanes_keeps (P := OnlyPlays s) (fun _ _ hu => hu.trans rfl)
    (fun u a e hu => hu.trans (playEntry_onlyPlays a e u)) (rfl : OnlyPlays s s) hrun

theorem tick_keeps {lanes : List Nat} (hrun : playLanes lanes s = .next t) (time : Time) :
    TickKeeps s (advanceIndex time (reorderTick s t)) :=
  (playLanes_onlyPlays hrun).tickKeeps.advanceIndex time

/-- The `RESET` line stands, and a running sequence still runs. -/
structure KeepsRunning (s t : State) : Prop where
  line : t.resetIn = s.resetIn := by rfl
  runs : s.seqRun = true → t.seqRun = true := by exact id

theorem OnlyMoves.keepsRunning (h : OnlyMoves s t) : KeepsRunning s t := by
  rw [h]
  exact {}

theorem OnlyPlays.keepsRunning (h : OnlyPlays s t) : KeepsRunning s t := by
  rw [h]
  exact {}

/-- No instruction moves the `RESET` line or stops the sequencer. -/
theorem exec_keepsRunning {i : Instr} (hrun : exec i s = .next t) : KeepsRunning s t := by
  have hcommand {effect : State} {checks : List (Bool × Cause)} (hrun : command s checks effect = .next t)
      (heffect : KeepsRunning s effect) : KeepsRunning s t :=
    command_keeps hrun (fun _ => {}) fun _ => heffect
  have hentry {e : Entry} (hrun : exec e.toInstr s = .next t) : KeepsRunning s t := by
    cases (exec_toInstr e s).symm.trans hrun
    exact (playEntry_onlyPlays s.lane e s).keepsRunning
  cases i with
  | goAbs axis | goRel axis => exact hcommand hrun (moveRel_onlyMoves axis.toNat _ s).keepsRunning
  | seqStart => exact hcommand hrun { runs := fun _ => rfl }
  | stepLoFwd => exact hentry (e := ⟨false, .fwd⟩) hrun
  | stepHiFwd => exact hentry (e := ⟨true, .fwd⟩) hrun
  | stepLoRev => exact hentry (e := ⟨false, .rev⟩) hrun
  | stepHiRev => exact hentry (e := ⟨true, .rev⟩) hrun
  | enable | disable | setDirection | setReference | setSpeedPw | setSpeedRps | setSpeedSps | setSpeedRpm
  | contStart | contStop | swingStart | swingStop | seqWrite | seqSetLen | seqSetPeriod | readReg =>
    exact hcommand hrun {}

/-- No agent but the `RESET` input moves the `RESET` line. -/
theorem Acts.resetIn {g : Agent} (hact : Acts s g t) (hrst : g ≠ .rst) : t.resetIn = s.resetIn := by
  cases hact with
  | reset => exact absurd rfl hrst
  | present => unfold presentCommand; split <;> rfl
  | command _ hexec => exact (exec_keepsRunning hexec).line
  | move => exact (moveStep_onlyMoves _ s).keepsRunning.line
  | tick _ _ hlanes => exact (tick_keeps hlanes _).world.resetIn
  | nothing | illegal | toggle | edge => rfl

/-- The step that asserts `RESET` is the `RESET` input's, and resets the block. -/
theorem step_asserting (hlow : s.resetIn = false) (hstep : step s = .next t) (hline : t.resetIn = true) :
    InReset s t ∧ (s.cmdValid = true → t.cmdValid = true) := by
  rcases step_cases hstep with ⟨g, -, k, hg⟩ | ⟨-, rfl⟩
  · rw [holdReset_eq_self hlow] at hg
    by_cases hrst : g = .rst
    · cases hrst
      cases hg
      rcases resetEdge_cases { s with draws := k } with ⟨rest, h⟩ | ⟨level, rest, hlevel, h⟩
      · exact h ▸ ⟨rfl, id⟩
      · rw [h] at hline
        cases hlow.symm.trans (hlevel hline)
    · cases hline.symm.trans (((acts_of_perform hg).resetIn hrst).trans hlow)
  · rw [holdReset_eq_self hlow, passTime_eq] at hline
    cases hline.symm.trans hlow

end

/-- Settles O52, by whether the line stands before the step: a block held in reset stays in its reset state, and the
step that asserts the line resets the block. -/
theorem resetAbandonsEverything : Obligations.ResetAbandonsEverything := by
  intro s t hstep hline r
  have hreset : InReset s t ∧ (s.cmdValid = true → t.cmdValid = true) := by
    cases hlow : s.resetIn with
    | true => exact step_of_asserted hlow hstep
    | false => exact step_asserting hlow hstep (hline.resolve_left (by simp [hlow]))
  obtain ⟨h, hwaits⟩ := hreset
  rw [h]
  exact ⟨rfl, rfl, rfl, rfl, rfl, rfl, rfl, rfl, rfl, rfl, rfl, hwaits⟩

/-! ### What only a reset undoes (R292) -/

/-- The move `m` has gone on by at most one step, or has just ended with its last step. -/
def Move.GoesOnOrEnds (m : Move) (t : State) : Prop :=
  (∃ m', t.cmdState = .moving m' ∧ m'.axis = m.axis ∧ m'.width = m.width ∧ m.remaining ≤ m'.remaining + 1)
    ∨ (m.phase = .low ∧ m.remaining ≤ 1 ∧ Answers t 0 0)

/-- A recorded fault is kept, a running sequence stops at its end alone, and a move goes on or ends with its last
step. -/
structure UndoesNothing (s t : State) : Prop where
  sticky : s.faultSticky ≠ 0 → t.faultSticky = s.faultSticky
  sequence : s.seqRun = true → t.seqRun = false → s.seqIdx + 1 = s.seqEnd ∧ t.seqIdx = s.seqEnd
  move : ∀ m, s.cmdState = .moving m → m.GoesOnOrEnds t

section
variable {s t : State} {m : Move}

theorem Move.goesOnOrEnds_of_record (h : t.cmdState = .moving m) : m.GoesOnOrEnds t :=
  .inl ⟨m, h, rfl, rfl, Nat.le_succ _⟩

/-- A pulse keeps the axis and the width, and counts at most one step. -/
theorem moveStep_goesOnOrEnds (m : Move) (s : State) : m.GoesOnOrEnds (moveStep m s) := by
  cases hphase : m.phase with
  | high =>
    rw [moveStep_of_high hphase]
    exact .inl ⟨m.lowered, writeStep_cmdState m.axis false _, rfl, rfl, Nat.le_succ _⟩
  | low =>
    rw [moveStep_of_low hphase]
    rcases le_or_gt m.remaining 1 with hlast | hmore
    · rw [endLow_of_last hlast]
      exact .inr ⟨hphase, hlast, respond_answers 0 _⟩
    · rw [endLow_of_more hmore]
      exact .inl ⟨m.raised, writeStep_cmdState m.axis true _, rfl, rfl, Nat.le_add_of_sub_le le_rfl⟩

theorem undoesNothing_of_same (hsticky : t.faultSticky = s.faultSticky) (hrun : t.seqRun = s.seqRun)
    (hrecord : t.cmdState = s.cmdState) : UndoesNothing s t where
  sticky _ := hsticky
  sequence hplaying hstopped := absurd (hplaying.symm.trans (hrun.symm.trans hstopped)) nofun
  move _ hmoving := Move.goesOnOrEnds_of_record (hrecord.trans hmoving)

theorem FaultedOrCompleted.keepsSticky (h : FaultedOrCompleted s t) (hfault : s.faultSticky ≠ 0) :
    t.faultSticky = s.faultSticky := by
  rcases h with ⟨_, hfaulted⟩ | ⟨hsticky, -⟩
  · exact hfaulted.sticky.trans (if_neg hfault)
  · exact hsticky

/-- A command is accepted only when no move runs. -/
theorem undoesNothing_of_command (hidle : s.cmdState = .idle) (hanswer : FaultedOrCompleted (acceptCommand s) t)
    (hkeeps : KeepsRunning (acceptCommand s) t) : UndoesNothing s t where
  sticky hfault := hanswer.keepsSticky hfault
  sequence hplaying hstopped := absurd ((hkeeps.runs hplaying).symm.trans hstopped) nofun
  move _ hmoving := by cases hidle.symm.trans hmoving

/-- The index that stops a running sequence is its end. -/
theorem advanceIndex_stops {time : Time} (hplaying : s.seqRun = true)
    (hstopped : (advanceIndex time s).seqRun = false) :
    s.seqIdx + 1 = s.seqEnd ∧ (advanceIndex time s).seqIdx = s.seqEnd := by
  by_cases hlast : s.seqIdx + 1 = s.seqEnd
  · rw [advanceIndex_of_last hlast]
    exact ⟨hlast, hlast⟩
  · rw [advanceIndex_of_more hlast] at hstopped
    cases hplaying.symm.trans hstopped

theorem undoesNothing_of_tick {lanes : List Nat} (hrun : playLanes lanes s = .next t) (time : Time) :
    UndoesNothing s (advanceIndex time (reorderTick s t)) := by
  have hkeeps := tick_keeps hrun time
  refine ⟨fun _ => hkeeps.sticky, fun hplaying hstopped => ?_,
    fun _ hmoving => Move.goesOnOrEnds_of_record (hkeeps.cmdState.trans hmoving)⟩
  have hframe := playLanes_onlyPlays hrun
  have hidx : (reorderTick s t).seqIdx = s.seqIdx := by rw [hframe]; rfl
  have hseqRun : (reorderTick s t).seqRun = s.seqRun := by rw [hframe]; rfl
  have hstops := advanceIndex_stops (hseqRun.trans hplaying) hstopped
  rwa [hidx, hframe.tickKeeps.fin] at hstops

theorem undoesNothing_of_moveStep (hmoving : s.cmdState = .moving m) : UndoesNothing s (moveStep m s) where
  sticky _ := by rw [moveStep_onlyMoves m s]
  sequence hplaying hstopped :=
    absurd (((moveStep_onlyMoves m s).keepsRunning.runs hplaying).symm.trans hstopped) nofun
  move _ hmoving' := CmdState.moving.inj (hmoving.symm.trans hmoving') ▸ moveStep_goesOnOrEnds m s

theorem idle_of_agentTime_cmd {time : Time} (h : s.agentTime .cmd = some time) : s.cmdState = .idle := by
  obtain ⟨hready, -⟩ := Option.ite_none_right_eq_some.mp h
  simp only [Bool.and_eq_true] at hready
  exact of_decide_eq_true hready.1.1

/-- No agent with a step to take undoes anything, but by asserting `RESET`. -/
theorem Acts.undoesNothing {g : Agent} {time : Time} (hact : Acts s g t) (htime : s.agentTime g = some time)
    (hlow : t.resetIn = false) : UndoesNothing s t := by
  cases hact with
  | present => unfold presentCommand; split <;> exact undoesNothing_of_same rfl rfl rfl
  | reset =>
    rcases resetEdge_cases s with ⟨rest, h⟩ | ⟨level, rest, -, h⟩
    · rw [h] at hlow
      cases hlow
    · rw [h]
      exact undoesNothing_of_same rfl rfl rfl
  | command hdecode hexec =>
    obtain ⟨u, hexec', hanswer⟩ := exec_answers (decodeCommand_wf hdecode).1 (acceptCommand s)
    cases hexec'.symm.trans hexec
    exact undoesNothing_of_command (idle_of_agentTime_cmd htime) hanswer (exec_keepsRunning hexec)
  | illegal =>
    exact undoesNothing_of_command (idle_of_agentTime_cmd htime) (.inl ⟨_, raiseFault_faulted _ _⟩) {}
  | move hmoving => exact undoesNothing_of_moveStep hmoving
  | tick _ _ hlanes => exact undoesNothing_of_tick hlanes _
  | nothing | toggle | edge => exact undoesNothing_of_same rfl rfl rfl

/-- A written entry stays written: a `SEQ_WRITE` writes its own cell and leaves every other. -/
theorem Acts.seqRead_isSome {g : Agent} (hact : Acts s g t) (hlow : t.resetIn = false) {a i : Nat}
    (h : (s.seqRead a i).isSome = true) : (t.seqRead a i).isSome = true := by
  rcases hact.mem_cases hlow with hmem | ⟨axis, x, e, -, -, -, rfl⟩
  · rwa [seqRead_congr hmem]
  · by_cases hcell : cellOf a i = cellOf axis.toNat x.toNat
    · have hread := seqRead_seqStore_self axis.toNat x.toNat e (acceptCommand s)
      rw [State.seqRead, ← hcell, ← State.seqRead] at hread
      exact Option.isSome_of_eq_some hread
    · exact (congrArg Option.isSome (seqRead_seqStore_ne hcell e (acceptCommand s))).trans h

end

/-- Settles O46, by the cases of a step: the line being low, one due agent acts, or time passes. -/
theorem onlyResetUndoes : Obligations.OnlyResetUndoes := by
  intro s t hstep hlow hlow'
  have hkept : UndoesNothing s t ∧ ∀ a i, (s.seqRead a i).isSome = true → (t.seqRead a i).isSome = true := by
    rcases step_cases hstep with ⟨g, hdue, k, hg⟩ | ⟨-, rfl⟩
    · rw [holdReset_eq_self hlow] at hdue hg
      obtain ⟨-, time, htime, -⟩ := mem_due hdue
      have hact := acts_of_perform hg
      exact ⟨{ hact.undoesNothing ((agentTime_withDraws s k g).trans htime) hlow' with },
        fun a i => hact.seqRead_isSome hlow'⟩
    · rw [holdReset_eq_self hlow, passTime_eq]
      exact ⟨undoesNothing_of_same rfl rfl rfl, fun _ _ h => h⟩
  obtain ⟨h, hentries⟩ := hkept
  exact ⟨h.sticky, h.sequence, h.move, hentries⟩

end Sys2Proof.Machine
end
